-- ==== Sys2Proof/Word.lean ====
section
/-! DEFINITION. The value types of the GBN Frame Engine (spec 00_scope.md R7): every value is unsigned, bit 0 is the
least significant bit, and a frame is a byte sequence (R12). -/

namespace Sys2Proof

/-- One byte of a frame or of a buffer. -/
abbrev Byte := BitVec 8

/-- A 16-bit value: the wire fields and the 16-bit registers. -/
abbrev Half := BitVec 16

/-- A 32-bit value: CSR data, buffer addresses, counters. -/
abbrev Word := BitVec 32

/-- A byte sequence: a frame on a channel, or the payload of one (R7, R12). -/
abbrev Frame := List Byte

end Sys2Proof
end

