-- ==== Sys2Proof/Syntax.lean ====
section
/-! DEFINITION. The operations of the engine and the wire frames: one constructor per row of spec/opcode_table.json
(30_encoding.md R96, R103), the record of the operation port (R95), and the names used by both. -/

namespace Sys2Proof

/-- The operations of R96, and the three wire frames of R103. A frame row stands for that frame arriving, as one whole
datagram (R99), at the engine that decodes it (R92). -/
inductive Instr where
  /-- `ENC_DATA seq, sid, last, payload` (R117). -/
  | encData (seq sid : Half) (last : Bool) (payload : Frame)
  /-- `DEC_DATA frame` (R118). -/
  | decData (frame : Frame)
  /-- `ENC_ACK ack, sid` (R119). -/
  | encAck (ackNum sid : Half)
  /-- `DEC_ACK frame` (R120). -/
  | decAck (frame : Frame)
  /-- `TX_START` (R164). -/
  | txStart
  /-- `TX_SEND` (R166). -/
  | txSend
  /-- `TX_ACK_IN frame, r` (R167). -/
  | txAckIn (frame : Frame) (r : Half)
  /-- `TX_TICK` (R188). -/
  | txTick
  /-- `TX_TIMEOUT` (R190). -/
  | txTimeout
  /-- `RX_START` (R137). -/
  | rxStart
  /-- `RX_FRAME_IN frame, r` (R138). -/
  | rxFrameIn (frame : Frame) (r : Half)
  /-- `CSR_READ csr` (R211). -/
  | csrRead (csr : BitVec 6)
  /-- `CSR_WRITE csr, data` (R212). -/
  | csrWrite (csr : BitVec 6) (wdata : Word)
  /-- `TXBUF_WRITE addr, data` (R213). -/
  | txbufWrite (addr wdata : Word)
  /-- `RXBUF_READ addr` (R214). -/
  | rxbufRead (addr : Word)
  /-- `STATS_SNAPSHOT` (R215). -/
  | statsSnapshot
  /-- A data frame with trailer 0x0000 (R86, R88) at the RX engine's input. -/
  | data (seq sid : Half) (payload : Frame)
  /-- A data frame with trailer 0xFFFF (R86, R88) at the RX engine's input. -/
  | dataLast (seq sid : Half) (payload : Frame)
  /-- An ack frame (R89) at the TX engine's input. -/
  | ack (ackNum sid : Half)
  deriving DecidableEq, Repr

/-- The agents that present operations (R21, column "issued by" of R96). -/
inductive Agent where
  | host
  | txEngine
  | forwardChannel
  | reverseChannel
  | tickSource
  deriving DecidableEq, Repr

/-- The two engines; a frame's kind is the engine whose input it arrives on (R92). -/
inductive Engine where
  | tx
  | rx
  deriving DecidableEq, Repr

/-- A record on the operation port (R95). Fields an operation does not use are ignored. -/
structure OpRecord where
  op      : Byte
  csr     : BitVec 6 := 0
  addr    : Word := 0
  data    : Word := 0
  seq     : Half := 0
  sid     : Half := 0
  last    : Bool := false
  payload : Frame := []
  frame   : Frame := []
  r       : Half := 0
  deriving DecidableEq, Repr

/-- How an instruction is encoded: a record on the operation port, or a whole datagram at an engine's input (R99). -/
inductive Encoded where
  | port (rec : OpRecord)
  | datagram (at_ : Engine) (bytes : Frame)
  deriving DecidableEq, Repr

/-- The decoded fields of a data frame (R86). -/
structure DataFrame where
  seq     : Half
  sid     : Half
  last    : Bool
  payload : Frame
  deriving DecidableEq, Repr

/-- The decoded fields of an ack frame (R89). -/
structure AckFrame where
  ackNum : Half
  sid    : Half
  deriving DecidableEq, Repr

/-- The codec's status names (R121). -/
inductive CodecStatus where
  | ok
  | malShort
  | malTrailer
  | malAckLen
  | tooLong
  deriving DecidableEq, Repr

/-- Why the decoder gives no instruction. -/
inductive DecodeError where
  /-- A reserved op code (R97). -/
  | reservedOp (op : Byte)
  /-- A byte sequence longer than the 65535 bytes R95 gives a record's `payload` or `frame`. -/
  | tooManyBytes
  /-- A datagram that is not a frame of its port's kind (R87, R88, R90). -/
  | malformed (why : CodecStatus)
  deriving DecidableEq, Repr

/-- The mapped registers of the CSR index space (R54). -/
inductive Csr where
  | txCtrl | txStatus | txErr | cfgM | cfgW | cfgTimeout | cfgSid | cfgLoss | txLen
  | txBase | txNext | txNseg | tmrCount | txTime | txSent | txRetx | txTStart | txTEnd
  | rxStatus | rxErr | rxCfgM | rxCfgLoss | rxExpected | rxLen | rxAccepted
  deriving DecidableEq, Repr

/-- The error codes the engines record (R232). -/
inductive ErrCode where
  | config
  | busy
  | rxOverflow
  | range
  deriving DecidableEq, Repr

end Sys2Proof
end

