-- ==== Sys2Proof/WellFormed.lean ====
section
/-! DEFINITION. Which instructions are well formed: the byte-sequence operands of a record have at most 65535 bytes
(30_encoding.md R95), and a wire data frame has at most 65535 bytes, so at most 65529 of payload (R87). Every other
operand is a bit vector of the width R95 gives it, so it has no ill-formed value. -/

namespace Sys2Proof

/-- A byte sequence a record may carry (R95: length 0..65535). -/
def fitsRecord (b : Frame) : Bool := b.length ≤ 65535

/-- A payload a wire data frame may carry (R87: `P <= 65529`). -/
def fitsFrame (p : Frame) : Bool := p.length ≤ 65529

/-- The check of an instruction's operands. -/
def Instr.wf : Instr → Bool
  | .encData _ _ _ payload => fitsRecord payload
  | .decData frame => fitsRecord frame
  | .encAck _ _ => true
  | .decAck frame => fitsRecord frame
  | .txStart => true
  | .txSend => true
  | .txAckIn frame _ => fitsRecord frame
  | .txTick => true
  | .txTimeout => true
  | .rxStart => true
  | .rxFrameIn frame _ => fitsRecord frame
  | .csrRead _ => true
  | .csrWrite _ _ => true
  | .txbufWrite _ _ => true
  | .rxbufRead _ => true
  | .statsSnapshot => true
  | .data _ _ payload => fitsFrame payload
  | .dataLast _ _ payload => fitsFrame payload
  | .ack _ _ => true

/-- A well-formed instruction. -/
abbrev Instr.WellFormed (i : Instr) : Prop := i.wf = true

end Sys2Proof
end

