-- ==== Sys2Proof/Decode.lean ====
section
/-! DEFINITION. The frame codec (40_codec.md R117 to R120, 30_encoding.md R86 to R91), the decoder of operation-port
records (R95 to R97) and of datagrams (R92, R103), and the encoder that is their inverse. -/

namespace Sys2Proof

/-! ## Byte order (20_memory.md R66, 00_scope.md R9) -/

/-- `le16(v)`: the low byte first. -/
def le16 (v : Half) : Frame := [v.setWidth 8, (v >>> 8).setWidth 8]

/-- Byte `i` of a sequence (R7); positions past the end are never used by a rule. -/
def byteAt (b : Frame) (i : Nat) : Byte := b.getD i 0

/-- `u16le(b, i)`. -/
def u16le (b : Frame) (i : Nat) : Half :=
  (byteAt b i).setWidth 16 ||| ((byteAt b (i + 1)).setWidth 16 <<< 8)

/-! ## The frame codec -/

/-- The largest payload the encoder accepts: `FRAME_MAX - 6` (R6, R87, R117). -/
def maxPayload : Nat := 65529

/-- The trailer field (R88). -/
def trailer (last : Bool) : Frame := if last then [0xFF, 0xFF] else [0x00, 0x00]

/-- `ENC_DATA` (R117). -/
def encodeData (seq sid : Half) (last : Bool) (payload : Frame) : CodecStatus × Frame :=
  if payload.length > maxPayload then (.tooLong, [])
  else (.ok, le16 seq ++ le16 sid ++ payload ++ trailer last)

/-- The `last` mark a trailer value stands for, none for a reserved value (R88). -/
def trailerLast (t : Half) : Option Bool :=
  if t = 0x0000 then some false else if t = 0xFFFF then some true else none

/-- `DEC_DATA` (R118): the length check, then the trailer check (R247). -/
def decodeData (b : Frame) : Except CodecStatus DataFrame :=
  if b.length < 6 then .error .malShort
  else match trailerLast (u16le b (b.length - 2)) with
    | none => .error .malTrailer
    | some last => .ok
        { seq := u16le b 0, sid := u16le b 2, last := last, payload := (b.drop 4).take (b.length - 6) }

/-- `ENC_ACK` (R119). -/
def encodeAck (ackNum sid : Half) : Frame := le16 ackNum ++ le16 sid

/-- `DEC_ACK` (R120). -/
def decodeAck (b : Frame) : Except CodecStatus AckFrame :=
  if b.length ≠ 4 then .error .malAckLen
  else .ok { ackNum := u16le b 0, sid := u16le b 2 }

/-! ## Operation-port records (R95 to R97) -/

/-- One row of the op code map (R96). -/
structure OpRow where
  op   : Byte
  who  : Agent
  make : OpRecord → Instr

/-- The codec rows of the op code map. -/
def codecRows : List OpRow :=
  [ ⟨0x01, .host, fun c => .encData c.seq c.sid c.last c.payload⟩,
    ⟨0x02, .host, fun c => .decData c.frame⟩,
    ⟨0x03, .host, fun c => .encAck c.seq c.sid⟩,
    ⟨0x04, .host, fun c => .decAck c.frame⟩ ]

/-- The TX rows of the op code map. -/
def txRows : List OpRow :=
  [ ⟨0x10, .host, fun _ => .txStart⟩,
    ⟨0x11, .txEngine, fun _ => .txSend⟩,
    ⟨0x12, .reverseChannel, fun c => .txAckIn c.frame c.r⟩,
    ⟨0x13, .tickSource, fun _ => .txTick⟩,
    ⟨0x14, .txEngine, fun _ => .txTimeout⟩ ]

/-- The RX rows of the op code map. -/
def rxRows : List OpRow :=
  [ ⟨0x20, .host, fun _ => .rxStart⟩,
    ⟨0x21, .forwardChannel, fun c => .rxFrameIn c.frame c.r⟩ ]

/-- The host interface rows of the op code map. -/
def hostRows : List OpRow :=
  [ ⟨0x30, .host, fun c => .csrRead c.csr⟩,
    ⟨0x31, .host, fun c => .csrWrite c.csr c.data⟩,
    ⟨0x32, .host, fun c => .txbufWrite c.addr c.data⟩,
    ⟨0x33, .host, fun c => .rxbufRead c.addr⟩,
    ⟨0x34, .host, fun _ => .statsSnapshot⟩ ]

/-- The op code map (R96). -/
def opTable : List OpRow := codecRows ++ txRows ++ rxRows ++ hostRows

/-- The row of an op code; none for a reserved code (R97). -/
def opRow (op : Byte) : Option OpRow := opTable.find? fun row => row.op == op

/-- The instruction of a record. -/
def decodeOp (c : OpRecord) : Except DecodeError Instr :=
  match opRow c.op with
  | none => .error (.reservedOp c.op)
  | some row => if (row.make c).wf then .ok (row.make c) else .error .tooManyBytes

/-- The agent R96 names for an op code (the host for a reserved code, which is refused whoever presents it, R97). -/
def opIssuer (op : Byte) : Agent := ((opRow op).map OpRow.who).getD .host

/-! ## Datagrams (R92, R103) -/

/-- The frame instruction of a whole datagram at an engine's input. -/
def decodeDatagram : Engine → Frame → Except DecodeError Instr
  | .rx, b =>
    if b.length > 65535 then .error .tooManyBytes
    else match decodeData b with
      | .error e => .error (.malformed e)
      | .ok d => .ok (if d.last then .dataLast d.seq d.sid d.payload else .data d.seq d.sid d.payload)
  | .tx, b =>
    if b.length > 65535 then .error .tooManyBytes
    else match decodeAck b with
      | .error e => .error (.malformed e)
      | .ok a => .ok (.ack a.ackNum a.sid)

/-- The decoder of everything that can be presented to the engine. -/
def decode : Encoded → Except DecodeError Instr
  | .port c => decodeOp c
  | .datagram e b => decodeDatagram e b

/-! ## The encoder -/

/-- The encoding of an instruction, from the same tables (R86, R89, R95, R96). -/
def encode : Instr → Encoded
  | .encData seq sid last payload => .port { op := 0x01, seq := seq, sid := sid, last := last, payload := payload }
  | .decData frame => .port { op := 0x02, frame := frame }
  | .encAck ackNum sid => .port { op := 0x03, seq := ackNum, sid := sid }
  | .decAck frame => .port { op := 0x04, frame := frame }
  | .txStart => .port { op := 0x10 }
  | .txSend => .port { op := 0x11 }
  | .txAckIn frame r => .port { op := 0x12, frame := frame, r := r }
  | .txTick => .port { op := 0x13 }
  | .txTimeout => .port { op := 0x14 }
  | .rxStart => .port { op := 0x20 }
  | .rxFrameIn frame r => .port { op := 0x21, frame := frame, r := r }
  | .csrRead csr => .port { op := 0x30, csr := csr }
  | .csrWrite csr wdata => .port { op := 0x31, csr := csr, data := wdata }
  | .txbufWrite addr wdata => .port { op := 0x32, addr := addr, data := wdata }
  | .rxbufRead addr => .port { op := 0x33, addr := addr }
  | .statsSnapshot => .port { op := 0x34 }
  | .data seq sid payload => .datagram .rx (encodeData seq sid false payload).2
  | .dataLast seq sid payload => .datagram .rx (encodeData seq sid true payload).2
  | .ack ackNum sid => .datagram .tx (encodeAck ackNum sid)

/-- The agent that may present an instruction (R96, R98). A datagram comes from the channel of its port (R21). -/
def issuer : Instr → Agent
  | .encData _ _ _ _ => .host
  | .decData _ => .host
  | .encAck _ _ => .host
  | .decAck _ => .host
  | .txStart => .host
  | .txSend => .txEngine
  | .txAckIn _ _ => .reverseChannel
  | .txTick => .tickSource
  | .txTimeout => .txEngine
  | .rxStart => .host
  | .rxFrameIn _ _ => .forwardChannel
  | .csrRead _ => .host
  | .csrWrite _ _ => .host
  | .txbufWrite _ _ => .host
  | .rxbufRead _ => .host
  | .statsSnapshot => .host
  | .data _ _ _ => .forwardChannel
  | .dataLast _ _ _ => .forwardChannel
  | .ack _ _ => .reverseChannel

/-! ## The opcode table's words (log entry 15)

The table gives an operation row the 8 bits of the `op` field; a data frame row the 16 bits of the trailer, the last two
bytes of the frame; the ack row no bits, since it is selected by its length. -/

/-- What the table's word of `nbits` bits stands for; the bits the table does not give are 0. -/
def tableEncoded (nbits w : Nat) : Option Encoded :=
  if nbits = 8 then some (.port { op := BitVec.ofNat 8 w })
  else if nbits = 16 then some (.datagram .rx ([0, 0, 0, 0] ++ le16 (BitVec.ofNat 16 w)))
  else if nbits = 0 ∨ nbits = 32 then
    some (.datagram .tx (le16 (BitVec.ofNat 16 w) ++ le16 (BitVec.ofNat 16 (w / 65536))))
  else none

/-- The instruction the decoder reads from a word of the opcode table. -/
def decodeTableWord (nbits w : Nat) : Option Instr :=
  match tableEncoded nbits w with
  | none => none
  | some e => match decode e with
    | .ok i => some i
    | .error _ => none

end Sys2Proof
end

