-- ==== Sys2Proof/Config.lean ====
section
/-! DEFINITION. What the spec leaves open (00_scope.md R6, the OPEN parameters of 92_eei_decisions.md, and the `any value`
rows of 93_implementation_defined.md): constants with no body, so that no proof can see their values. -/

namespace Sys2Proof.Config

/-- `TXCAP - 1`: the capacity of `TXBUF` is an OPEN parameter in 1..2^32 - 1 (R6, D19; log entry 9). -/
opaque txCapPred : Fin 4294967295

/-- `RXCAP - 1`: the capacity of `RXBUF` is an OPEN parameter in 1..2^32 - 1 (R6, D19; log entry 9). -/
opaque rxCapPred : Fin 4294967295

/-- `TXCAP`, in 1..2^32 - 1. -/
def txCap : Nat := txCapPred.val + 1

/-- `RXCAP`, in 1..2^32 - 1. -/
def rxCap : Nat := rxCapPred.val + 1

/-- `CH_REORDER`: whether the environment's channels may reorder frames (R6, R76; log entry 10). -/
opaque chReorder : Bool

/-- `CH_DUP`: whether the environment's channels may duplicate frames (R6, R76; log entry 10). -/
opaque chDup : Bool

/-- The random source's draw `r` for a frame that arrives as a bare datagram: any 16-bit value (R204; log entry 7).
The argument is `State.fresh`. -/
opaque draw : Nat → Half

/-- The byte an `RXBUF_READ` returns where the spec says `any byte` (R214; log entries 6 and 11).
The argument is `State.fresh`. -/
opaque anyByte : Nat → Byte

/-- Which of `TX_TIMEOUT` and `TX_SEND` the TX engine takes by itself when both are enabled and nothing is presented:
the order is open (R73, R246; log entry 8). The argument is `State.fresh`. -/
opaque picksTimeout : Nat → Bool

end Sys2Proof.Config
end

