-- ==== Sys2Proof/Machine/State.lean ====
section
/-! DEFINITION. The state of the engine (10_state.md): everything the spec gives the TX engine, the RX engine and the
operation port, the parameters of 00_scope.md R6, the inputs waiting to be taken, and the reasons a step can stop. -/

namespace Sys2Proof.Machine

/-- A byte space (R61): the written cells, in rising order of address. An address with no entry is unwritten. -/
abbrev Memory := List Host.Cell

/-- The canonical form of a byte space: addresses strictly rising. An unlisted address reads as no value, which no entry
holds, so equal contents are equal lists. -/
abbrev Memory.wf (m : Memory) : Prop := m.Pairwise fun c d => c.1 < d.1

/-- `TX_STATE` (R23). The reserved value 3 is never entered, so it has no constructor. -/
inductive TxState where
  | idle
  | active
  | done
  deriving DecidableEq, Repr

/-- `RX_STATE` (R42). The reserved value 3 is never entered, so it has no constructor. -/
inductive RxState where
  | idle
  | await
  | done
  deriving DecidableEq, Repr

/-- The TX engine: its registers (R23 to R41), `TXBUF` (R62) and `TX_OUT` (R49). -/
structure TxEngine where
  /-- `TX_STATE` (R23). -/
  state      : TxState
  /-- `TX_BASE` (R24). -/
  base       : Half
  /-- `TX_NEXT` (R25). -/
  next       : Half
  /-- `TX_NSEG` (R26). -/
  nseg       : Half
  /-- `TX_LEN` (R27). -/
  len        : Word
  /-- `TMR_RUN` (R28). -/
  tmrRun     : Bool
  /-- `TMR_COUNT` (R29). -/
  tmrCount   : Word
  /-- `TX_TIME` (R30). -/
  time       : Word
  /-- `TX_SENT` (R31). -/
  sent       : Word
  /-- `TX_RETX` (R32). -/
  retx       : Word
  /-- `TX_T_START` (R33). -/
  tStart     : Word
  /-- `TX_T_END` (R34). -/
  tEnd       : Word
  /-- `TX_ERR` (R35). -/
  err        : Half
  /-- `TX_CTRL` (R36): bit 0 is `ACK_LOSS_EN`. -/
  ctrl       : Word
  /-- `CFG_M` (R37). -/
  cfgM       : Half
  /-- `CFG_W` (R38). -/
  cfgW       : Half
  /-- `CFG_TIMEOUT` (R39). -/
  cfgTimeout : Word
  /-- `CFG_SID` (R40). -/
  cfgSid     : Half
  /-- `CFG_LOSS` (R41). -/
  cfgLoss    : Half
  /-- `TXBUF` (R50, R62). -/
  buf        : Memory
  /-- `TX_OUT`, head first (R49). -/
  out        : List Frame
  deriving DecidableEq, Repr

/-- The RX engine: its registers (R42 to R48), `RXBUF` (R65) and `RX_OUT` (R49). -/
structure RxEngine where
  /-- `RX_STATE` (R42). -/
  state    : RxState
  /-- `RX_EXPECTED` (R43). -/
  expected : Half
  /-- `RX_LEN` (R44). -/
  len      : Word
  /-- `RX_ACCEPTED` (R45). -/
  accepted : Word
  /-- `RX_ERR` (R46). -/
  err      : Half
  /-- `RX_CFG_M` (R47). -/
  cfgM     : Half
  /-- `RX_CFG_LOSS` (R48). -/
  cfgLoss  : Half
  /-- `RXBUF` (R50, R65). -/
  buf      : Memory
  /-- `RX_OUT`, head first (R49). -/
  out      : List Frame
  deriving DecidableEq, Repr

/-- The model parameters of R6 and R60: fixed while the engine runs. No step changes them. -/
structure Params where
  /-- `TXCAP`. -/
  txCap     : Nat
  /-- `RXCAP`. -/
  rxCap     : Nat
  /-- `CH_REORDER`. -/
  chReorder : Bool
  /-- `CH_DUP`. -/
  chDup     : Bool
  deriving DecidableEq, Repr

/-- The ranges R6 gives the capacities. -/
abbrev Params.wf (p : Params) : Prop :=
  1 ≤ p.txCap ∧ p.txCap ≤ 4294967295 ∧ 1 ≤ p.rxCap ∧ p.rxCap ≤ 4294967295

/-- The values an operation returns on the port beside `status` (R95). -/
inductive PortValue where
  /-- No value: every operation whose rule returns none. -/
  | none
  /-- `frame`, from `ENC_DATA` and `ENC_ACK`. -/
  | frame (bytes : Frame)
  /-- `seq`, `sid`, `last`, `payload`, from `DEC_DATA`. -/
  | dataFrame (d : DataFrame)
  /-- `ack`, `sid`, from `DEC_ACK`. -/
  | ackFrame (a : AckFrame)
  /-- `data`, from `CSR_READ` and `RXBUF_READ`. -/
  | data (d : Word)
  /-- `data`, the zero-extended byte, from an `RXBUF_READ` whose byte the spec leaves open (R214). The address is the model's
  note of which read that was, so that repeating it returns the same byte (R71, log entry 6). -/
  | anyData (addr : Word) (byte : Byte)
  /-- The six counters of `STATS_SNAPSHOT`. -/
  | stats (sent retx accepted tStart tEnd now : Word)
  deriving DecidableEq, Repr

/-- The result record of an operation (R95). -/
structure PortResult where
  status : Byte
  value  : PortValue
  deriving DecidableEq, Repr

/-- A step of a channel on the output queue it serves (R76, R101). -/
inductive ChannelAct where
  /-- `FWD_LOSE` / `REV_LOSE`: remove and discard the head. -/
  | lose
  /-- Deliver entry `k` with draw `r`; `keep` leaves the entry in the queue for another delivery. `FWD_DELIVER` and
  `REV_DELIVER` are `k = 0` with `keep = false`. -/
  | deliver (k : Nat) (keep : Bool) (r : Half)
  deriving DecidableEq, Repr

/-- What the world outside can do to the engine, one entry per step (R21, R101, R261; log entry 1). -/
inductive Input where
  /-- An agent presents a record on the operation port (R95, R98). -/
  | present (who : Agent) (rec : OpRecord)
  /-- A whole datagram arrives at an engine's input from a channel whose far end is outside this engine
  (R99, R217, R252). -/
  | datagram (at_ : Engine) (bytes : Frame)
  /-- The forward channel acts on `TX_OUT` (R76). -/
  | forward (act : ChannelAct)
  /-- The reverse channel acts on `RX_OUT` (R76). -/
  | reverse (act : ChannelAct)
  /-- The `RESET` input (R261). -/
  | reset
  deriving DecidableEq, Repr

/-- The whole state. -/
structure State where
  /-- The TX engine. -/
  tx     : TxEngine
  /-- The RX engine; it shares no register, buffer or queue with the TX engine (R21). -/
  rx     : RxEngine
  /-- The result record the last operation left on the port (R95); none before the first one (log entry 4). -/
  result : Option PortResult
  /-- The parameters of R6. -/
  params : Params
  /-- What is presented to the engine, in the order in which it is taken (MODEL's own, log entry 1). -/
  inputs : List Input
  /-- How many free values have been used (MODEL's own: the argument of `Config.draw`, `Config.anyByte` and
  `Config.picksTimeout`; log entries 6, 7 and 8). -/
  fresh  : Nat
  deriving DecidableEq, Repr

/-- The model's faults (R244). A fault makes no partial change (R242). -/
inductive Fault where
  /-- Raised by `TX_SEND` and `TX_TIMEOUT` when a segment fetch reads a `TXBUF` cell nothing has written (R64): the
  hardware's behaviour is unspecified. Safe: nothing can be proved about the bytes sent. -/
  | txBufUnwritten
  deriving DecidableEq, Repr

/-- The model's refusals (R245). -/
inductive Refusal where
  /-- Raised by `exec` for an instruction that has no meaning yet. Safe: nothing can be proved about it. -/
  | notModelled (mnemonic : String)
  /-- Raised by the fetch for a reserved op code (R97). Safe: the model stops where the hardware ignores the record. -/
  | reservedOp (op : Byte)
  /-- Raised by the fetch for an operation presented by an agent other than the one R96 names (R98). Safe: as above. -/
  | wrongAgent (who : Agent) (op : Byte)
  /-- Raised by the fetch for a record, or a datagram, that no port can carry: a byte sequence longer than 65535 bytes
  (R95). Safe: the spec gives such a record no meaning. -/
  | badRecord
  /-- Raised by the fetch for a reordering or a duplication by a channel whose parameter forbids it (R76). Safe: the
  spec's environment does not take that step. -/
  | channelForbids
  deriving DecidableEq, Repr

/-- What the next step is about to do. -/
inductive Fetched where
  /-- The engine takes this operation in this state. -/
  | run (i : Instr) (s : State)
  /-- No operation is taken: the world outside acts, or nothing happens. -/
  | idle (s : State)
  /-- The presented operation is not admitted. -/
  | refuse (r : Refusal)
  deriving DecidableEq, Repr

/-- The TX engine after `RESET` (R59). -/
def TxEngine.reset : TxEngine where
  state      := .idle
  base       := 0xFFFF
  next       := 0xFFFF
  nseg       := 0
  len        := 0
  tmrRun     := false
  tmrCount   := 0
  time       := 0
  sent       := 0
  retx       := 0
  tStart     := 0
  tEnd       := 0
  err        := 0
  ctrl       := 0
  cfgM       := 0
  cfgW       := 0
  cfgTimeout := 0
  cfgSid     := 0
  cfgLoss    := 0
  buf        := []
  out        := []

/-- The RX engine after `RESET` (R59). The contents of `RXBUF` are unspecified: no cell has a known value
(log entry 11). -/
def RxEngine.reset : RxEngine where
  state    := .idle
  expected := 0
  len      := 0
  accepted := 0
  err      := 0
  cfgM     := 0
  cfgLoss  := 0
  buf      := []
  out      := []

/-- The parameters of the machine (R6): open. -/
def Params.machine : Params where
  txCap     := Config.txCap
  rxCap     := Config.rxCap
  chReorder := Config.chReorder
  chDup     := Config.chDup

/-- The machine right after reset (R59, R264), with nothing presented to it. -/
def State.reset : State where
  tx     := TxEngine.reset
  rx     := RxEngine.reset
  result := none
  params := Params.machine
  inputs := []
  fresh  := 0

end Sys2Proof.Machine
end

