-- ==== Sys2Proof/Machine/Ops.lean ====
section
/-! DEFINITION. The named operations the meanings share: byte spaces (20_memory.md R61 to R65), the operation port's
answer (30_encoding.md R95), recording and clearing an error (60_exceptions.md R231, R240, R241: the engine's only
exception mechanism, and its only return), the timer primitives (43_timer.md R187), the output queues (10_state.md R49),
the segment fetch (R63), the loss decision (44_loss.md R201) and `RESET` (70_reset_and_hazards.md R261). -/

namespace Sys2Proof.Machine

/-! ## Byte spaces -/

/-- The byte a cell holds; none for an unwritten cell (R62). -/
def cellRead : Memory → Nat → Option Byte
  | [], _ => none
  | c :: m, a => if c.1 = a then some c.2 else cellRead m a

/-- Write one cell, keeping the addresses rising. -/
def cellWrite : Memory → Nat → Byte → Memory
  | [], a, v => [(a, v)]
  | c :: m, a, v =>
    if a < c.1 then (a, v) :: c :: m
    else if a = c.1 then (a, v) :: m
    else c :: cellWrite m a v

/-- `MemRead(S, a, n)` (R9); none where a cell of the range is unwritten. -/
def memRead (m : Memory) (a : Nat) : Nat → Option Frame
  | 0 => some []
  | n + 1 =>
    match cellRead m a, memRead m (a + 1) n with
    | some v, some rest => some (v :: rest)
    | _, _ => none

/-- `MemWrite(S, a, len(v), v)` (R9). -/
def memWrite (m : Memory) (a : Nat) : Frame → Memory
  | [] => m
  | v :: rest => memWrite (cellWrite m a v) (a + 1) rest

/-! ## One engine at a time -/

/-- A step of the TX engine changes the TX engine only (R21). -/
def State.onTx (s : State) (f : TxEngine → TxEngine) : State := { s with tx := f s.tx }

/-- A step of the RX engine changes the RX engine only (R21). -/
def State.onRx (s : State) (f : RxEngine → RxEngine) : State := { s with rx := f s.rx }

/-- Use one free value. -/
def State.useFresh (s : State) : State := { s with fresh := s.fresh + 1 }

/-! ## The operation port (R95) -/

/-- The codec's status codes (R121). -/
def statusCode : CodecStatus → Byte
  | .ok => 0x00
  | .malShort => 0x01
  | .malTrailer => 0x02
  | .malAckLen => 0x03
  | .tooLong => 0x04

/-- Leave a result record on the port. -/
def State.answer (s : State) (status : Byte) (v : PortValue) : State := { s with result := some ⟨status, v⟩ }

/-- Complete an operation that returns no value: status 0 (R95). -/
def State.complete (s : State) : State := s.answer 0 .none

/-- The `data` field of a result (R95); none where the operation returns none. -/
def portData : PortValue → Option Word
  | .data d => some d
  | .anyData _ byte => some (byte.setWidth 32)
  | _ => none

/-- The byte the last operation returned, if it was a read of this address whose byte the spec leaves open and no other step
has intervened (R71; log entry 6). -/
def heldByte (s : State) (addr : Word) : Option Byte :=
  match s.result with
  | some ⟨_, .anyData a byte⟩ => if a = addr then some byte else none
  | _ => none

/-- A result record after a step that is no operation: the same values on the port, but a read that is repeated now is no
repetition without another step between (R71). -/
def intervened : Option PortResult → Option PortResult
  | some ⟨status, .anyData _ byte⟩ => some ⟨status, .data (byte.setWidth 32)⟩
  | r => r

/-! ## Errors -/

/-- The `CODE` field (R232). -/
def errCode : ErrCode → Byte
  | .config => 0x01
  | .busy => 0x02
  | .rxOverflow => 0x03
  | .range => 0x04

/-- `record` (R240): `DETAIL << 8 | CODE`, unless an earlier error is still recorded. -/
def recordError (err : Half) (e : ErrCode) (detail : Byte) : Half :=
  if err = 0 then detail ++ errCode e else err

/-- `raise` in an operation of the TX engine (R231, R240). -/
def raiseTx (s : State) (e : ErrCode) (detail : Byte) : State :=
  s.onTx fun x => { x with err := recordError x.err e detail }

/-- `raise` in an operation of the RX engine (R231, R240). -/
def raiseRx (s : State) (e : ErrCode) (detail : Byte) : State :=
  s.onRx fun x => { x with err := recordError x.err e detail }

/-- Clear `TX_ERR`, the only return from an error (R241). -/
def clearTxErr (s : State) : State := s.onTx fun x => { x with err := 0 }

/-- Clear `RX_ERR` (R241). -/
def clearRxErr (s : State) : State := s.onRx fun x => { x with err := 0 }

/-! ## The timer primitives (R187) -/

/-- `timer_start()`. -/
def timerStart (x : TxEngine) : TxEngine := { x with tmrRun := true, tmrCount := x.cfgTimeout }

/-- `timer_restart()`. -/
def timerRestart (x : TxEngine) : TxEngine := { x with tmrRun := true, tmrCount := x.cfgTimeout }

/-- `timer_stop()`. -/
def timerStop (x : TxEngine) : TxEngine := { x with tmrRun := false, tmrCount := 0 }

/-! ## Output queues (R9 `emit`, R49) -/

/-- Append frames to `TX_OUT`, in order (R77). -/
def emitTx (x : TxEngine) (fs : List Frame) : TxEngine := { x with out := x.out ++ fs }

/-- Append one frame to `RX_OUT`. -/
def emitRx (x : RxEngine) (f : Frame) : RxEngine := { x with out := x.out ++ [f] }

/-! ## Segments (R63) -/

/-- `ceil_div(a, b)` (R8). -/
def ceilDiv (a b : Nat) : Nat := (a + b - 1) / b

/-- `seg_off(i)`. -/
def segOff (x : TxEngine) (i : Nat) : Nat := i * x.cfgM.toNat

/-- `seg_len(i)`. -/
def segLen (x : TxEngine) (i : Nat) : Nat :=
  if i < x.nseg.toNat - 1 then x.cfgM.toNat else x.len.toNat - (x.nseg.toNat - 1) * x.cfgM.toNat

/-- `seg(i)`; none where the fetch reads an unwritten cell (R64). -/
def segment (x : TxEngine) (i : Nat) : Option Frame := memRead x.buf (segOff x i) (segLen x i)

/-- The data frame of segment `i` (R166, R190); none where its fetch reads an unwritten cell. -/
def segmentFrame (x : TxEngine) (i : Nat) : Option Frame :=
  match segment x i with
  | none => none
  | some p => some (encodeData (BitVec.ofNat 16 i) x.cfgSid (decide (i = x.nseg.toNat - 1)) p).2

/-- The data frames of `k` segments from segment `i` up, in ascending order (R190). -/
def segmentFrames (x : TxEngine) (i : Nat) : Nat → Option (List Frame)
  | 0 => some []
  | k + 1 =>
    match segmentFrame x i, segmentFrames x (i + 1) k with
    | some f, some fs => some (f :: fs)
    | _, _ => none

/-! ## Loss, reset -/

/-- The loss decision (R201). -/
def shouldDrop (r loss : Half) : Bool := decide (r.toNat < loss.toNat)

/-- `RESET` (R261): both engines at their reset values, and no result on the port. The parameters are not state of the
engine (R60), what is presented to it belongs to the world outside (R262), and the free values used belong to the run. -/
def resetState (s : State) : State := { s with tx := TxEngine.reset, rx := RxEngine.reset, result := none }

end Sys2Proof.Machine
end

