-- ==== Sys2Proof/Machine/Codec.lean ====
section
/-! DEFINITION. The frame codec's stand-alone operations (40_codec.md R116 to R121): pure, a failure is only the status
of the result. -/

namespace Sys2Proof.Machine

/-- `ENC_DATA` (R117). -/
def execEncData (seq sid : Half) (last : Bool) (payload : Frame) (s : State) : Host.Outcome State Fault Refusal :=
  .next (s.answer (statusCode (encodeData seq sid last payload).1) (.frame (encodeData seq sid last payload).2))

/-- `DEC_DATA` (R118); on a failing status the other fields are 0 and the payload is empty. -/
def execDecData (frame : Frame) (s : State) : Host.Outcome State Fault Refusal :=
  match decodeData frame with
  | .ok d => .next (s.answer (statusCode .ok) (.dataFrame d))
  | .error e => .next (s.answer (statusCode e) (.dataFrame ⟨0, 0, false, []⟩))

/-- `ENC_ACK` (R119). -/
def execEncAck (ackNum sid : Half) (s : State) : Host.Outcome State Fault Refusal :=
  .next (s.answer (statusCode .ok) (.frame (encodeAck ackNum sid)))

/-- `DEC_ACK` (R120); on a failing status the other fields are 0. -/
def execDecAck (frame : Frame) (s : State) : Host.Outcome State Fault Refusal :=
  match decodeAck frame with
  | .ok a => .next (s.answer (statusCode .ok) (.ackFrame a))
  | .error e => .next (s.answer (statusCode e) (.ackFrame ⟨0, 0⟩))

end Sys2Proof.Machine
end

