-- ==== Sys2Proof/Machine/Flags.lean ====
section
/-! DEFINITION. The one-bit state and the derived flags (10_state.md R51): the status lines (60_exceptions.md R243), the
status words (R54, R211), `ACK_LOSS_EN` (R36), and the guards of the internal operations (R165, R189). -/

namespace Sys2Proof.Machine

/-- The 2-bit value of `TX_STATE` (R23). -/
def txStateCode : TxState → BitVec 2
  | .idle => 0
  | .active => 1
  | .done => 2

/-- The 2-bit value of `RX_STATE` (R42). -/
def rxStateCode : RxState → BitVec 2
  | .idle => 0
  | .await => 1
  | .done => 2

/-- The value of `TX_STATUS`: `TX_STATE | TMR_RUN << 2` (R211). -/
def txStatusWord (x : TxEngine) : Word :=
  (txStateCode x.state).setWidth 32 ||| ((BitVec.ofBool x.tmrRun).setWidth 32 <<< 2)

/-- The value of `RX_STATUS` (R211). -/
def rxStatusWord (x : RxEngine) : Word := (rxStateCode x.state).setWidth 32

/-- `TX_CTRL.ACK_LOSS_EN` (R36). -/
def ackLossEn (x : TxEngine) : Bool := x.ctrl.getLsbD 0

/-- The status line `TX_DONE` (R243). -/
def lineTxDone (s : State) : Bool := decide (s.tx.state = .done)

/-- The status line `RX_DONE` (R243). -/
def lineRxDone (s : State) : Bool := decide (s.rx.state = .done)

/-- The status line `TX_ERRL` (R243). -/
def lineTxErr (s : State) : Bool := decide (s.tx.err ≠ 0)

/-- The status line `RX_ERRL` (R243). -/
def lineRxErr (s : State) : Bool := decide (s.rx.err ≠ 0)

/-- The guard of `TX_SEND` (R165); the sum is not truncated (R8). -/
def txSendEnabled (x : TxEngine) : Bool :=
  decide (x.state = .active) && decide (x.next.toNat < x.base.toNat + x.cfgW.toNat) &&
    decide (x.next.toNat < x.nseg.toNat)

/-- The guard of `TX_TIMEOUT` (R189). -/
def txTimeoutEnabled (x : TxEngine) : Bool := decide (x.state = .active) && x.tmrRun && decide (x.tmrCount = 0)

end Sys2Proof.Machine
end

