-- ==== Sys2Proof/Machine/Operands.lean ====
section
/-! DEFINITION. The CSR operand: the index map (10_state.md R54), what a read gives (R55, R56, R211) and what a write
does (R212, R241). -/

namespace Sys2Proof.Machine

/-- The register of a CSR index; none for an unmapped index (R54). -/
def csrAt (idx : BitVec 6) : Option Csr :=
  match idx.toNat with
  | 0x00 => some .txCtrl
  | 0x01 => some .txStatus
  | 0x02 => some .txErr
  | 0x03 => some .cfgM
  | 0x04 => some .cfgW
  | 0x05 => some .cfgTimeout
  | 0x06 => some .cfgSid
  | 0x07 => some .cfgLoss
  | 0x08 => some .txLen
  | 0x09 => some .txBase
  | 0x0A => some .txNext
  | 0x0B => some .txNseg
  | 0x0C => some .tmrCount
  | 0x0D => some .txTime
  | 0x0E => some .txSent
  | 0x0F => some .txRetx
  | 0x10 => some .txTStart
  | 0x11 => some .txTEnd
  | 0x20 => some .rxStatus
  | 0x21 => some .rxErr
  | 0x22 => some .rxCfgM
  | 0x23 => some .rxCfgLoss
  | 0x24 => some .rxExpected
  | 0x25 => some .rxLen
  | 0x26 => some .rxAccepted
  | _ => none

/-- The value of a register, zero-extended to 32 bits, its reserved bits 0 (R55, R211). -/
def csrValue (s : State) : Csr → Word
  | .txCtrl => s.tx.ctrl &&& 1
  | .txStatus => txStatusWord s.tx
  | .txErr => s.tx.err.setWidth 32
  | .cfgM => s.tx.cfgM.setWidth 32
  | .cfgW => s.tx.cfgW.setWidth 32
  | .cfgTimeout => s.tx.cfgTimeout
  | .cfgSid => s.tx.cfgSid.setWidth 32
  | .cfgLoss => s.tx.cfgLoss.setWidth 32
  | .txLen => s.tx.len
  | .txBase => s.tx.base.setWidth 32
  | .txNext => s.tx.next.setWidth 32
  | .txNseg => s.tx.nseg.setWidth 32
  | .tmrCount => s.tx.tmrCount
  | .txTime => s.tx.time
  | .txSent => s.tx.sent
  | .txRetx => s.tx.retx
  | .txTStart => s.tx.tStart
  | .txTEnd => s.tx.tEnd
  | .rxStatus => rxStatusWord s.rx
  | .rxErr => s.rx.err.setWidth 32
  | .rxCfgM => s.rx.cfgM.setWidth 32
  | .rxCfgLoss => s.rx.cfgLoss.setWidth 32
  | .rxExpected => s.rx.expected.setWidth 32
  | .rxLen => s.rx.len
  | .rxAccepted => s.rx.accepted

/-- The value a read of an index gives: 0 at an unmapped index (R56). -/
def csrRead (s : State) (idx : BitVec 6) : Word :=
  match csrAt idx with
  | some c => csrValue s c
  | none => 0

/-- A write to a TX configuration register: refused with `BUSY` while a transfer runs (R212, R234). -/
def storeTxConfig (s : State) (f : TxEngine → TxEngine) : State :=
  if s.tx.state = .active then raiseTx s .busy 0x02 else s.onTx f

/-- A write to an RX configuration register: refused with `BUSY` while a transfer runs (R212, R234). -/
def storeRxConfig (s : State) (f : RxEngine → RxEngine) : State :=
  if s.rx.state = .await then raiseRx s .busy 0x02 else s.onRx f

/-- A write to a register (R212). Read-only registers ignore it (R54). -/
def csrStore (s : State) (wdata : Word) : Csr → State
  | .txErr => clearTxErr s
  | .rxErr => clearRxErr s
  | .txCtrl => storeTxConfig s fun x => { x with ctrl := wdata &&& 1 }
  | .cfgM => storeTxConfig s fun x => { x with cfgM := wdata.setWidth 16 }
  | .cfgW => storeTxConfig s fun x => { x with cfgW := wdata.setWidth 16 }
  | .cfgTimeout => storeTxConfig s fun x => { x with cfgTimeout := wdata }
  | .cfgSid => storeTxConfig s fun x => { x with cfgSid := wdata.setWidth 16 }
  | .cfgLoss => storeTxConfig s fun x => { x with cfgLoss := wdata.setWidth 16 }
  | .txLen => storeTxConfig s fun x => { x with len := wdata }
  | .rxCfgM => storeRxConfig s fun x => { x with cfgM := wdata.setWidth 16 }
  | .rxCfgLoss => storeRxConfig s fun x => { x with cfgLoss := wdata.setWidth 16 }
  | .txStatus | .txBase | .txNext | .txNseg | .tmrCount | .txTime | .txSent | .txRetx | .txTStart | .txTEnd => s
  | .rxStatus | .rxExpected | .rxLen | .rxAccepted => s

/-- A write to an index: an unmapped index ignores it (R56). -/
def csrWrite (s : State) (idx : BitVec 6) (wdata : Word) : State :=
  match csrAt idx with
  | some c => csrStore s wdata c
  | none => s

end Sys2Proof.Machine
end

