-- ==== Sys2Proof/Machine/HostPort.lean ====
section
/-! DEFINITION. The host interface operations (45_host.md R211 to R215). -/

namespace Sys2Proof.Machine

/-- `CSR_READ` (R211). -/
def execCsrRead (csr : BitVec 6) (s : State) : Host.Outcome State Fault Refusal :=
  .next (s.answer 0 (.data (csrRead s csr)))

/-- `CSR_WRITE` (R212). -/
def execCsrWrite (csr : BitVec 6) (wdata : Word) (s : State) : Host.Outcome State Fault Refusal :=
  .next (csrWrite s csr wdata).complete

/-- `TXBUF_WRITE` (R213). -/
def execTxbufWrite (addr wdata : Word) (s : State) : Host.Outcome State Fault Refusal :=
  if s.tx.state = .active then .next (raiseTx s .busy 0x03).complete
  else if addr.toNat ≥ s.params.txCap then .next (raiseTx s .range 0x01).complete
  else .next (s.onTx fun x => { x with buf := memWrite x.buf addr.toNat [wdata.setWidth 8] }).complete

/-- A byte the spec leaves to `any value`, on the port (R214; log entries 6 and 11): a read repeated with no other step between
returns the byte it returned (R71), every other read a new free value. -/
def answerAnyByte (addr : Word) (s : State) : State :=
  match heldByte s addr with
  | some byte => s.answer 0 (.anyData addr byte)
  | none => s.useFresh.answer 0 (.anyData addr (Config.anyByte s.fresh))

/-- `RXBUF_READ` (R214). A cell below `RX_LEN` that holds no known value occurs in no reachable state; there too the byte
is any value (log entry 11). -/
def execRxbufRead (addr : Word) (s : State) : Host.Outcome State Fault Refusal :=
  if addr.toNat ≥ s.rx.len.toNat then .next (answerAnyByte addr (raiseRx s .range 0x02))
  else match cellRead s.rx.buf addr.toNat with
    | some v => .next (s.answer 0 (.data (v.setWidth 32)))
    | none => .next (answerAnyByte addr s)

/-- `STATS_SNAPSHOT` (R215). -/
def execStatsSnapshot (s : State) : Host.Outcome State Fault Refusal :=
  .next (s.answer 0 (.stats s.tx.sent s.tx.retx s.rx.accepted s.tx.tStart s.tx.tEnd s.tx.time))

end Sys2Proof.Machine
end

