-- ==== Sys2Proof/Machine/Receiver.lean ====
section
/-! DEFINITION. The RX engine (41_receiver.md R136 to R149): `RX_START`, `RX_FRAME_IN`, and a data frame arriving as a
datagram (30_encoding.md R103). -/

namespace Sys2Proof.Machine

/-- The effect of an `RX_START` that passes its checks (R137). -/
def beginReceive (x : RxEngine) : RxEngine := { x with state := .await, expected := 0, len := 0, accepted := 0 }

/-- `RX_START` (R137). -/
def execRxStart (s : State) : Host.Outcome State Fault Refusal :=
  if s.rx.state = .await then .next (raiseRx s .busy 0x01).complete
  else if s.rx.cfgM.toNat = 0 ∨ s.rx.cfgM.toNat > maxPayload then .next (raiseRx s .config 0x01).complete
  else .next (s.onRx beginReceive).complete

/-- The accept action (R140, R142). -/
def acceptFrame (x : RxEngine) (d : DataFrame) : RxEngine :=
  let y := emitRx x (encodeAck x.expected d.sid)
  { y with
    buf      := memWrite x.buf x.len.toNat d.payload
    len      := x.len + BitVec.ofNat 32 d.payload.length
    expected := x.expected + 1
    accepted := x.accepted + 1
    state    := if d.last then .done else x.state }

/-- The mismatch action (R141): re-ack the last accepted segment, if there is one. -/
def mismatchFrame (x : RxEngine) (d : DataFrame) : RxEngine :=
  if x.expected = 0 then x else emitRx x (encodeAck (x.expected - 1) d.sid)

/-- A decoded data frame: the size check, then accept, overflow or mismatch (R139, R146, R147). -/
def takeData (s : State) (d : DataFrame) : State :=
  if d.payload.length > s.rx.cfgM.toNat then s
  else if d.seq = s.rx.expected ∧ s.rx.expected ≠ 0xFFFF then
    if s.rx.len.toNat + d.payload.length > s.params.rxCap then raiseRx s .rxOverflow 0x00
    else s.onRx fun x => acceptFrame x d
  else s.onRx fun x => mismatchFrame x d

/-- One inbound datagram with draw `r`, the checks in the order of R247 (R138). -/
def frameArrives (s : State) (frame : Frame) (r : Half) : State :=
  if s.rx.state ≠ .await then s
  else if shouldDrop r s.rx.cfgLoss then s
  else match decodeData frame with
    | .error _ => s
    | .ok d => takeData s d

/-- `RX_FRAME_IN` (R138). -/
def execRxFrameIn (frame : Frame) (r : Half) (s : State) : Host.Outcome State Fault Refusal :=
  .next (frameArrives s frame r).complete

/-- A data frame with trailer 0x0000 arrives at the RX engine as a datagram: `RX_FRAME_IN` of its bytes, with the random
source's draw (R86, R103, R204; log entries 7 and 13). -/
def execData (seq sid : Half) (payload : Frame) (s : State) : Host.Outcome State Fault Refusal :=
  .next (frameArrives s.useFresh (encodeData seq sid false payload).2 (Config.draw s.fresh)).complete

/-- A data frame with trailer 0xFFFF arrives at the RX engine as a datagram (as `execData`). -/
def execDataLast (seq sid : Half) (payload : Frame) (s : State) : Host.Outcome State Fault Refusal :=
  .next (frameArrives s.useFresh (encodeData seq sid true payload).2 (Config.draw s.fresh)).complete

end Sys2Proof.Machine
end

