-- ==== Sys2Proof/Machine/Sender.lean ====
section
/-! DEFINITION. The TX engine's sliding-window sequencer (42_sender.md R161 to R174): `TX_START`, `TX_SEND`, `TX_ACK_IN`,
and an ack frame arriving as a datagram (30_encoding.md R103). -/

namespace Sys2Proof.Machine

/-- The configuration checks of `TX_START`, in order: the detail of the first that fails (R162). -/
def txConfigError (s : State) : Option Byte :=
  if s.tx.cfgM.toNat = 0 ∨ s.tx.cfgM.toNat > maxPayload then some 0x01
  else if s.tx.cfgW.toNat = 0 then some 0x02
  else if s.tx.cfgTimeout.toNat = 0 then some 0x03
  else if s.tx.len.toNat > s.params.txCap then some 0x04
  else if ceilDiv s.tx.len.toNat s.tx.cfgM.toNat > 65535 then some 0x05
  else none

/-- The effect of a `TX_START` that passes its checks (R163, R164). -/
def beginTransfer (x : TxEngine) : TxEngine :=
  { x with
    nseg     := BitVec.ofNat 16 (max 1 (ceilDiv x.len.toNat x.cfgM.toNat))
    base     := 0
    next     := 0
    tmrRun   := false
    tmrCount := 0
    sent     := 0
    retx     := 0
    tStart   := x.time
    tEnd     := 0
    state    := .active }

/-- `TX_START` (R164). -/
def execTxStart (s : State) : Host.Outcome State Fault Refusal :=
  if s.tx.state = .active then .next (raiseTx s .busy 0x01).complete
  else match txConfigError s with
    | some detail => .next (raiseTx s .config detail).complete
    | none => .next (s.onTx beginTransfer).complete

/-- The effect of sending the next segment, whose frame is `f` (R166). -/
def sendNext (x : TxEngine) (f : Frame) : TxEngine :=
  let y := emitTx x [f]
  let z := if x.base = x.next then timerStart y else y
  { z with next := x.next + 1, sent := x.sent + 1 }

/-- `TX_SEND` (R166). Where its guard is false it has no step: the engine waits, unchanged (R10, R172; log entry 5). -/
def execTxSend (s : State) : Host.Outcome State Fault Refusal :=
  if txSendEnabled s.tx then
    match segmentFrame s.tx s.tx.next.toNat with
    | none => .fault .txBufUnwritten
    | some f => .next (s.onTx fun x => sendNext x f).complete
  else .next s

/-- The window after a duplicate or advancing ack `k`, and completion (R169, R170). -/
def advanceWindow (x : TxEngine) (k : Half) : TxEngine :=
  let y : TxEngine := { x with base := k + 1 }
  let z := if y.base = y.next then timerStop y else timerRestart y
  if z.base = z.nseg then { z with state := .done, tEnd := z.time } else z

/-- The effect of a decoded ack `k` by its class (R168): ahead and stale acks do nothing. -/
def takeAck (x : TxEngine) (k : Half) : TxEngine :=
  if k.toNat ≥ x.next.toNat then x
  else if k.toNat + 1 < x.base.toNat then x
  else advanceWindow x k

/-- One inbound ack datagram with draw `r`, the checks in the order of R247 (R167). -/
def ackArrives (x : TxEngine) (frame : Frame) (r : Half) : TxEngine :=
  if x.state ≠ .active then x
  else if ackLossEn x && shouldDrop r x.cfgLoss then x
  else match decodeAck frame with
    | .error _ => x
    | .ok a => takeAck x a.ackNum

/-- `TX_ACK_IN` (R167). -/
def execTxAckIn (frame : Frame) (r : Half) (s : State) : Host.Outcome State Fault Refusal :=
  .next (s.onTx fun x => ackArrives x frame r).complete

/-- An ack frame arrives at the TX engine as a datagram: `TX_ACK_IN` of its bytes, with the random source's draw
(R89, R103, R204; log entries 7 and 13). -/
def execAck (ackNum sid : Half) (s : State) : Host.Outcome State Fault Refusal :=
  .next (s.useFresh.onTx fun x => ackArrives x (encodeAck ackNum sid) (Config.draw s.fresh)).complete

end Sys2Proof.Machine
end

