-- ==== Sys2Proof/Machine/Timer.lean ====
section
/-! DEFINITION. The retransmission timer (43_timer.md R186 to R194): `TX_TICK` and `TX_TIMEOUT`. -/

namespace Sys2Proof.Machine

/-- One unit of time at the TX engine (R188). -/
def tick (x : TxEngine) : TxEngine :=
  let y : TxEngine := { x with time := x.time + 1 }
  if y.tmrRun && decide (y.tmrCount ≠ 0) then { y with tmrCount := y.tmrCount - 1 } else y

/-- `TX_TICK` (R188). -/
def execTxTick (s : State) : Host.Outcome State Fault Refusal := .next (s.onTx tick).complete

/-- How many segments are in flight: `TX_NEXT - TX_BASE` (R190). -/
def inFlight (x : TxEngine) : Nat := x.next.toNat - x.base.toNat

/-- The effect of the burst `fs` of the whole window (R190). -/
def retransmit (x : TxEngine) (fs : List Frame) : TxEngine :=
  let y := emitTx x fs
  timerRestart { y with retx := y.retx + BitVec.ofNat 32 (inFlight x), sent := y.sent + BitVec.ofNat 32 (inFlight x) }

/-- `TX_TIMEOUT` (R190). Where its guard is false it has no step: the engine waits, unchanged (R10, R189;
log entry 5). -/
def execTxTimeout (s : State) : Host.Outcome State Fault Refusal :=
  if txTimeoutEnabled s.tx then
    match segmentFrames s.tx s.tx.base.toNat (inFlight s.tx) with
    | none => .fault .txBufUnwritten
    | some fs => .next (s.onTx fun x => retransmit x fs).complete
  else .next s

end Sys2Proof.Machine
end

