-- ==== Sys2Proof/Machine/Dispatch.lean ====
section
/-! DEFINITION. One arm per instruction: a direct call of its meaning. -/

namespace Sys2Proof.Machine

def exec (i : Instr) (s : State) : Host.Outcome State Fault Refusal :=
  match i with
  | .encData seq sid last payload => Sys2Proof.Machine.execEncData seq sid last payload s
  | .decData frame => Sys2Proof.Machine.execDecData frame s
  | .encAck ackNum sid => Sys2Proof.Machine.execEncAck ackNum sid s
  | .decAck frame => Sys2Proof.Machine.execDecAck frame s
  | .txStart => Sys2Proof.Machine.execTxStart s
  | .txSend => Sys2Proof.Machine.execTxSend s
  | .txAckIn frame r => Sys2Proof.Machine.execTxAckIn frame r s
  | .txTick => Sys2Proof.Machine.execTxTick s
  | .txTimeout => Sys2Proof.Machine.execTxTimeout s
  | .rxStart => Sys2Proof.Machine.execRxStart s
  | .rxFrameIn frame r => Sys2Proof.Machine.execRxFrameIn frame r s
  | .csrRead csr => Sys2Proof.Machine.execCsrRead csr s
  | .csrWrite csr wdata => Sys2Proof.Machine.execCsrWrite csr wdata s
  | .txbufWrite addr wdata => Sys2Proof.Machine.execTxbufWrite addr wdata s
  | .rxbufRead addr => Sys2Proof.Machine.execRxbufRead addr s
  | .statsSnapshot => Sys2Proof.Machine.execStatsSnapshot s
  | .data seq sid payload => Sys2Proof.Machine.execData seq sid payload s
  | .dataLast seq sid payload => Sys2Proof.Machine.execDataLast seq sid payload s
  | .ack ackNum sid => Sys2Proof.Machine.execAck ackNum sid s

end Sys2Proof.Machine
end

