-- ==== Sys2Proof/Machine/Fetch.lean ====
section
/-! DEFINITION. What the next step does: the head of what is presented to the engine, admitted or refused
(30_encoding.md R97, R98; 60_exceptions.md R245), the reference environment's channels (20_memory.md R76), `RESET`
(70_reset_and_hazards.md R261), and the TX engine's own steps where nothing is presented (R98, R165, R189). -/

namespace Sys2Proof.Machine

/-- The refusal of what the decoder gives no instruction for (R95, R97). -/
def refusalOf : DecodeError → Refusal
  | .reservedOp op => .reservedOp op
  | .tooManyBytes => .badRecord
  | .malformed _ => .badRecord

/-- A record presented by an agent: admitted only from the agent R96 names (R98). -/
def takeRecord (who : Agent) (c : OpRecord) (s : State) : Fetched :=
  match decodeOp c with
  | .error e => .refuse (refusalOf e)
  | .ok i => if issuer i = who then .run i s else .refuse (.wrongAgent who c.op)

/-- The arrival operation of an engine's input for bytes that are no frame of its kind (R90, R92, R145): the same
operation a record presents, with the random source's draw; it drops them (log entry 13). -/
def malformedArrival (e : Engine) (b : Frame) (r : Half) : Instr :=
  match e with
  | .tx => .txAckIn b r
  | .rx => .rxFrameIn b r

/-- A whole datagram at an engine's input (R92, R99, R103). -/
def arrive (e : Engine) (b : Frame) (s : State) : Fetched :=
  match decodeDatagram e b with
  | .ok i => .run i s
  | .error (.malformed _) => .run (malformedArrival e b (Config.draw s.fresh)) s.useFresh
  | .error err => .refuse (refusalOf err)

/-- Whether the parameters allow a delivery of entry `k`, kept or not (R76 (d), (e)). -/
def channelMay (p : Params) (k : Nat) (keep : Bool) : Bool := (k == 0 || p.chReorder) && (!keep || p.chDup)

/-- The forward channel acts on `TX_OUT` (R76, R101): a delivery presents `RX_FRAME_IN`. Where the queue
holds no such entry, for a loss as for a delivery, nothing changes and no step intervenes (DESIGN CHOICE, log entries 6
and 10). -/
def forwardStep (act : ChannelAct) (s : State) : Fetched :=
  match act with
  | .lose =>
    match s.tx.out with
    | [] => .idle s
    | _ :: q => .idle { s.onTx (fun x => { x with out := q }) with result := intervened s.result }
  | .deliver k keep r =>
    if channelMay s.params k keep then
      match s.tx.out[k]? with
      | none => .idle s
      | some f => takeRecord .forwardChannel { op := 0x21, frame := f, r := r }
          (s.onTx fun x => { x with out := if keep then x.out else x.out.eraseIdx k })
    else .refuse .channelForbids

/-- The reverse channel acts on `RX_OUT` (R76, R101): a delivery presents `TX_ACK_IN`. Where the queue
holds no such entry nothing changes, as in `forwardStep` (DESIGN CHOICE, log entries 6 and 10). -/
def reverseStep (act : ChannelAct) (s : State) : Fetched :=
  match act with
  | .lose =>
    match s.rx.out with
    | [] => .idle s
    | _ :: q => .idle { s.onRx (fun x => { x with out := q }) with result := intervened s.result }
  | .deliver k keep r =>
    if channelMay s.params k keep then
      match s.rx.out[k]? with
      | none => .idle s
      | some f => takeRecord .reverseChannel { op := 0x12, frame := f, r := r }
          (s.onRx fun x => { x with out := if keep then x.out else x.out.eraseIdx k })
    else .refuse .channelForbids

/-- One input, taken. -/
def takeInput (x : Input) (s : State) : Fetched :=
  match x with
  | .present who c => takeRecord who c s
  | .datagram e b => arrive e b s
  | .forward act => forwardStep act s
  | .reverse act => reverseStep act s
  | .reset => .idle (resetState s)

/-- With nothing presented, the TX engine takes an enabled internal operation by itself (R98); where two are enabled the
choice is open (R73, R246; log entry 8), and where none is, nothing happens. -/
def ownStep (s : State) : Fetched :=
  if txTimeoutEnabled s.tx && txSendEnabled s.tx then
    .run (if Config.picksTimeout s.fresh then .txTimeout else .txSend) s.useFresh
  else if txTimeoutEnabled s.tx then .run .txTimeout s
  else if txSendEnabled s.tx then .run .txSend s
  else .idle s

/-- What the next step does. -/
def fetch (s : State) : Fetched :=
  match s.inputs with
  | [] => ownStep s
  | x :: rest => takeInput x { s with inputs := rest }

/-- The input that presents a word of the opcode table (log entry 15): the agent R96 names presents the record, and a
frame arrives at its engine. -/
def tableInput (nbits w : Nat) : Input :=
  match tableEncoded nbits w with
  | some (.port c) => .present (opIssuer c.op) c
  | some (.datagram e b) => .datagram e b
  | none => .present .host { op := 0 }

end Sys2Proof.Machine
end

