-- ==== Sys2Proof/Machine/Pseudo.lean ====
section
/-! DEFINITION. The pseudo-operations of 30_encoding.md R102, each its expansion into operations in order, and the bring-up
of 70_reset_and_hazards.md R265. -/

namespace Sys2Proof.Machine

/-- Operations executed one after another; the first that does not complete ends the sequence. -/
def execAll : List Instr → State → Host.Outcome State Fault Refusal
  | [], s => .next s
  | i :: rest, s =>
    match exec i s with
    | .next t => execAll rest t
    | .fault f => .fault f
    | .refused r => .refused r

/-- `CONFIG_TX m, w, t, sid, loss, ackloss` (R102). R102 gives the operands no width: here `m`, `w`, `sid` and `loss` are 16
bits, zero-extended into the write data, and `t` and `ackloss` 32 (DESIGN CHOICE, log entry 23). -/
def configTx (m w : Half) (t : Word) (sid loss : Half) (ackLoss : Word) : List Instr :=
  [ .csrWrite 0x03 (m.setWidth 32),
    .csrWrite 0x04 (w.setWidth 32),
    .csrWrite 0x05 t,
    .csrWrite 0x06 (sid.setWidth 32),
    .csrWrite 0x07 (loss.setWidth 32),
    .csrWrite 0x00 ackLoss ]

/-- `CONFIG_RX m, loss` (R102); its operands are 16 bits, zero-extended (DESIGN CHOICE, log entry 23). -/
def configRx (m loss : Half) : List Instr := [.csrWrite 0x22 (m.setWidth 32), .csrWrite 0x23 (loss.setWidth 32)]

/-- `TXBUF_WRITE` of consecutive cells from `a` up. -/
def writeCells (a : Nat) : Frame → List Instr
  | [] => []
  | v :: rest => .txbufWrite (BitVec.ofNat 32 a) (v.setWidth 32) :: writeCells (a + 1) rest

/-- `LOAD_TX {stream}` (R102); cell numbers and the length are taken to 32 bits, the width of their operands (DESIGN CHOICE, log
entry 23). -/
def loadTx (stream : Frame) : List Instr :=
  writeCells 0 stream ++ [.csrWrite 0x08 (BitVec.ofNat 32 stream.length)]

/-- `CLEAR_ERR_TX` (R102). -/
def clearErrTx : List Instr := [.csrWrite 0x02 0]

/-- `CLEAR_ERR_RX` (R102). -/
def clearErrRx : List Instr := [.csrWrite 0x21 0]

/-- `READ_RX n` (R102); `n` is any number and its addresses are taken to 32 bits (DESIGN CHOICE, log entry 23). -/
def readRx (n : Nat) : List Instr := (List.range n).map fun a => .rxbufRead (BitVec.ofNat 32 a)

/-- Steps 2 to 6 of the bring-up (R265); both engines take the same segment size `m` (R266). -/
def bringUp (m w : Half) (t : Word) (sid loss : Half) (ackLoss : Word) (rxLoss : Half) (stream : Frame) : List Instr :=
  configTx m w t sid loss ackLoss ++ configRx m rxLoss ++ loadTx stream ++ [.rxStart, .txStart]

end Sys2Proof.Machine
end

