-- ==== Sys2Proof/Machine/Run.lean ====
section
/-! DEFINITION. Unbounded runs, in which the world outside decides before every step what it presents, and what happens in
one step of a run: the terms in which 70_reset_and_hazards.md R270 states its fairness premises (log entry 22). -/

namespace Sys2Proof.Machine

/-- `s` with what the world outside presents for one step: one input, or nothing. -/
def State.offered (s : State) (x : Option Input) : State := { s with inputs := x.toList }

/-- An unbounded run: the states passed through, what is presented for each step, and that every step is the machine's. No
step of a run faults or is refused. -/
structure Run where
  state : Nat → State
  given : Nat → Option Input
  steps : ∀ n, step ((state n).offered (given n)) = .next (state (n + 1))

/-- Step `n` of the run takes the operation `i`. -/
def Run.takes (ρ : Run) (n : Nat) (i : Instr) : Prop := ∃ u, fetch ((ρ.state n).offered (ρ.given n)) = .run i u

/-- Step `n` of the run emits the frame `f` on `TX_OUT`. -/
def Run.emitsData (ρ : Run) (n : Nat) (f : Frame) : Prop :=
  ∃ i u new, fetch ((ρ.state n).offered (ρ.given n)) = .run i u ∧ (ρ.state (n + 1)).tx.out = u.tx.out ++ new ∧ f ∈ new

/-- Step `n` of the run emits the frame `f` on `RX_OUT`. -/
def Run.emitsAck (ρ : Run) (n : Nat) (f : Frame) : Prop :=
  ∃ i u new, fetch ((ρ.state n).offered (ρ.given n)) = .run i u ∧ (ρ.state (n + 1)).rx.out = u.rx.out ++ new ∧ f ∈ new

/-- Step `n` of the run delivers `f` to the RX engine with a draw that its loss simulator lets pass (R201). -/
def Run.passesToRx (ρ : Run) (n : Nat) (f : Frame) : Prop :=
  ∃ r, ρ.takes n (.rxFrameIn f r) ∧ shouldDrop r (ρ.state n).rx.cfgLoss = false

/-- Step `n` of the run delivers `f` to the TX engine with a draw that its loss simulator, where it is on, lets pass
(R201, R202 (b)). -/
def Run.passesToTx (ρ : Run) (n : Nat) (f : Frame) : Prop :=
  ∃ r, ρ.takes n (.txAckIn f r) ∧ (ackLossEn (ρ.state n).tx && shouldDrop r (ρ.state n).tx.cfgLoss) = false

/-- Something happens at infinitely many steps. -/
def InfinitelyOften (p : Nat → Prop) : Prop := ∀ n, ∃ k, n ≤ k ∧ p k

/-- A channel's act that keeps no copy of a frame it delivers, as `FWD_DELIVER` and `REV_DELIVER` remove it (R101). -/
def ChannelAct.removes : ChannelAct → Bool
  | .lose => true
  | .deliver _ keep _ => !keep

/-- What may be presented in the course of one loopback transfer: every act of a channel on its queue that keeps no copy,
and every operation of another agent; no frame from elsewhere (R274) and no `RESET`. -/
def withinTransfer : Input → Bool
  | .present who _ => who != .forwardChannel && who != .reverseChannel
  | .datagram _ _ => false
  | .forward act => act.removes
  | .reverse act => act.removes
  | .reset => false

end Sys2Proof.Machine
end

