-- ==== Sys2Proof/Safety.lean ====
section
/-! DEFINITION. What counts as a good state, in the terms the claims use: the invariants of the TX engine (10_state.md
R52, 43_timer.md R186, R193), of a running transfer (42_sender.md R162, R163), of the RX engine (10_state.md R53), of the
byte spaces and of the output queues, the agreement of the two engines of a loopback (60_exceptions.md R252), and the fairness
premises of a loopback transfer (70_reset_and_hazards.md R270). -/

namespace Sys2Proof.Machine

/-- A step that neither faults nor is refused. -/
def SafeStep (s : State) : Prop := ∃ t, step s = .next t

/-- The window and timer invariants (R52, R186, R193). -/
structure TxInv (x : TxEngine) : Prop where
  /-- R52 (a), (b). -/
  window : x.state = .active →
    x.base.toNat ≤ x.next.toNat ∧ x.next.toNat ≤ x.base.toNat + x.cfgW.toNat ∧
    x.next.toNat ≤ x.nseg.toNat ∧ x.base.toNat < x.nseg.toNat
  /-- R52 (c), R193. -/
  timer : x.state = .active → (x.tmrRun = true ↔ x.base.toNat < x.next.toNat)
  /-- R52 (d). -/
  stopped : x.state = .active → x.tmrRun = false → x.tmrCount = 0
  /-- R186: a running timer counts within `0..CFG_TIMEOUT`. -/
  bounded : x.state = .active → x.tmrCount.toNat ≤ x.cfgTimeout.toNat
  /-- R52 (e). -/
  finished : x.state = .done → x.base = x.next ∧ x.next = x.nseg ∧ x.tmrRun = false

/-- The configuration a running transfer was started with (R162, R163). -/
structure TransferInv (s : State) : Prop where
  /-- The checks of `TX_START` still hold. -/
  legal : s.tx.state = .active →
    1 ≤ s.tx.cfgM.toNat ∧ s.tx.cfgM.toNat ≤ 65529 ∧ 1 ≤ s.tx.cfgW.toNat ∧ 1 ≤ s.tx.cfgTimeout.toNat ∧
    s.tx.len.toNat ≤ s.params.txCap
  /-- `TX_NSEG = max(1, ceil_div(TX_LEN, CFG_M))`. -/
  count : s.tx.state = .active → s.tx.nseg.toNat = max 1 ((s.tx.len.toNat + s.tx.cfgM.toNat - 1) / s.tx.cfgM.toNat)

/-- The reassembly invariants (R44, R53 (a)), with the cells below `RX_LEN` holding bytes. -/
structure RxInv (s : State) : Prop where
  /-- R53 (a). -/
  counts : s.rx.expected.toNat = s.rx.accepted.toNat
  /-- R44: `RX_LEN` never exceeds `RXCAP`. -/
  fits : s.rx.len.toNat ≤ s.params.rxCap
  /-- Every byte below `RX_LEN` has been written. -/
  written : ∀ a, a < s.rx.len.toNat → cellRead s.rx.buf a ≠ none

/-- Both byte spaces are in canonical form and within their capacities (R61). -/
structure BufInv (s : State) : Prop where
  txForm : s.tx.buf.wf
  rxForm : s.rx.buf.wf
  txRange : ∀ c ∈ s.tx.buf, c.1 < s.params.txCap
  rxRange : ∀ c ∈ s.rx.buf, c.1 < s.params.rxCap

/-- Every queued frame is one its engine may send (R49, R87, R88, R89, R93). -/
structure QueueInv (s : State) : Prop where
  /-- A data frame with a legal index and at most 65529 bytes of payload. -/
  data : ∀ f ∈ s.tx.out, ∃ seq sid : Half, ∃ last : Bool, ∃ p : Frame,
    seq ≠ 0xFFFF ∧ p.length ≤ 65529 ∧ f = le16 seq ++ le16 sid ++ p ++ trailer last
  /-- An ack frame that does not name the sentinel. -/
  acks : ∀ f ∈ s.rx.out, ∃ k sid : Half, k ≠ 0xFFFF ∧ f = le16 k ++ le16 sid

/-- The segments of a stream (R63): `M` bytes each, the last one what is left. -/
def streamSegment (stream : Frame) (m i : Nat) : Frame := (stream.drop (i * m)).take m

/-- How many segments a stream has (R163). -/
def streamSegments (stream : Frame) (m : Nat) : Nat := max 1 ((stream.length + m - 1) / m)

/-- The safety of a loopback transfer of `stream` in segments of `m` bytes: the TX engine sends that stream, everything in
`TX_OUT` is a segment of it, and what the RX engine has reassembled is a prefix of it, whole once `RX_STATE = DONE`
(R53 (b), (c); R63; R65; R142). -/
structure LoopInv (stream : Frame) (m : Nat) (s : State) : Prop where
  legal : 1 ≤ m ∧ m ≤ 65529 ∧ streamSegments stream m ≤ 65535
  source : s.tx.state = .active →
    s.tx.cfgM.toNat = m ∧ s.tx.len.toNat = stream.length ∧
    ∀ a, a < stream.length → cellRead s.tx.buf a = stream[a]?
  total : s.tx.state ≠ .idle → s.tx.nseg.toNat = streamSegments stream m
  frames : ∀ f ∈ s.tx.out, ∃ i : Nat, ∃ sid : Half, i < streamSegments stream m ∧
    f = le16 (BitVec.ofNat 16 i) ++ le16 sid ++ streamSegment stream m i ++
      trailer (decide (i + 1 = streamSegments stream m))
  progress : s.rx.state = .await → s.rx.expected.toNat < streamSegments stream m
  whole : s.rx.state = .done → s.rx.expected.toNat = streamSegments stream m
  length : s.rx.state ≠ .idle → s.rx.len.toNat = min (s.rx.expected.toNat * m) stream.length
  bytes : s.rx.state ≠ .idle → ∀ a, a < s.rx.len.toNat → cellRead s.rx.buf a = stream[a]?

/-- The sender never runs ahead of the receiver: `TX_BASE` counts only segments the RX engine has accepted, and every ack
in `RX_OUT` names one of them (R149, R169, R174). -/
structure AckInv (s : State) : Prop where
  behind : s.tx.state ≠ .idle → s.tx.base.toNat ≤ s.rx.expected.toNat
  acks : ∀ f ∈ s.rx.out, ∃ k sid : Half, k.toNat < s.rx.expected.toNat ∧ f = le16 k ++ le16 sid

/-- Inputs that leave the forward path and the stream of a loopback alone: no data frame from outside, no new
`TX_START`. -/
def forwardClosed : Input → Bool
  | .present who c => who != .forwardChannel && c.op != 0x10
  | .datagram e _ => e == .tx
  | .forward _ => true
  | .reverse _ => true
  | .reset => true

/-- Inputs that leave the reverse path of a loopback alone: no ack from outside, no new `RX_START`. -/
def reverseClosed : Input → Bool
  | .present who c => who != .reverseChannel && c.op != 0x20
  | .datagram e _ => e == .rx
  | .forward _ => true
  | .reverse _ => true
  | .reset => true

/-- The state the bring-up of a loopback transfer of `stream` ends in (R265), with the premises of R270 1: equal segment
sizes (R266), room for the stream, and no frame of an earlier transfer in a channel (R274). -/
structure BroughtUp (stream : Frame) (s : State) : Prop where
  params : s.params.wf
  states : s.tx.state = .active ∧ s.rx.state = .await
  /-- What `TX_START` and `RX_START` leave (R137, R163). -/
  begun : s.tx.base = 0 ∧ s.tx.next = 0 ∧ s.tx.tmrRun = false ∧ s.tx.tmrCount = 0 ∧ s.rx.expected = 0 ∧ s.rx.len = 0
  transfer : TransferInv s
  loaded : s.tx.len.toNat = stream.length ∧ ∀ a, a < stream.length → cellRead s.tx.buf a = stream[a]?
  agree : s.rx.cfgM = s.tx.cfgM
  fits : stream.length ≤ s.params.rxCap
  quiet : s.tx.out = [] ∧ s.rx.out = []

/-- A run in which one loopback transfer of `stream` is under way, with the fairness premises 1 to 5 of R270. -/
structure FairTransfer (stream : Frame) (ρ : Run) : Prop where
  /-- Premise 1: the bring-up has been done. -/
  configured : BroughtUp stream (ρ.state 0)
  /-- Nothing ends the transfer from outside or feeds it frames of its own, and a delivered frame leaves its channel
  (premises 1 and 4; log entry 22). -/
  alone : ∀ n x, ρ.given n = some x → withinTransfer x = true
  /-- Premise 2, `TX_SEND`: weak fairness. -/
  sends : ∀ n, (∀ k, n ≤ k → txSendEnabled (ρ.state k).tx = true) → ∃ k, n ≤ k ∧ ρ.takes k .txSend
  /-- Premise 2, `TX_TIMEOUT`: weak fairness. -/
  expires : ∀ n, (∀ k, n ≤ k → txTimeoutEnabled (ρ.state k).tx = true) → ∃ k, n ≤ k ∧ ρ.takes k .txTimeout
  /-- Premise 3. -/
  ticks : InfinitelyOften fun n => ρ.takes n .txTick
  /-- Premise 4, forward: strong fairness per frame value. -/
  forward : ∀ f, InfinitelyOften (fun n => ρ.emitsData n f) → InfinitelyOften fun n => ∃ r, ρ.takes n (.rxFrameIn f r)
  /-- Premise 4, reverse. -/
  reverse : ∀ f, InfinitelyOften (fun n => ρ.emitsAck n f) → InfinitelyOften fun n => ∃ r, ρ.takes n (.txAckIn f r)
  /-- Premise 5 at the RX engine. -/
  rxDraws : ∀ f, InfinitelyOften (fun n => ∃ r, ρ.takes n (.rxFrameIn f r)) → InfinitelyOften fun n => ρ.passesToRx n f
  /-- Premise 5 at the TX engine. -/
  txDraws : ∀ f, InfinitelyOften (fun n => ∃ r, ρ.takes n (.txAckIn f r)) → InfinitelyOften fun n => ρ.passesToTx n f

end Sys2Proof.Machine
end

