-- ==== Sys2Proof/Certificates/Slice0/Obligations.lean ====
section
/-! DEFINITION. The statements for the provers. Each docstring names the rules of spec/ it formalises. -/

open Sys2Proof Sys2Proof.Machine

/-! ## Encoding -/

/-- Decoding the encoding of a well-formed instruction gives it back: records by the op code map (R95, R96), frames by
their bytes (R86, R89, R103). -/
def Obligations.DecodeOfEncode : Prop :=
  ∀ i : Instr, i.WellFormed → decode (encode i) = .ok i

/-- The other direction for datagrams: bytes that decode to a frame instruction are exactly its encoding (R91, R99,
R122 (b) and (d)), and the instruction is well formed. -/
def Obligations.DatagramEncodingUnique : Prop :=
  ∀ (e : Engine) (b : Frame) (i : Instr), decode (.datagram e b) = .ok i →
    encode i = .datagram e b ∧ i.WellFormed

/-- The round-trip laws of R122, said of the operations themselves: (a) `DEC_DATA` after `ENC_DATA`, (b) `ENC_DATA` after
`DEC_DATA`, (c) `DEC_ACK` after `ENC_ACK`, (d) `ENC_ACK` after `DEC_ACK`; byte sequences are those a record can carry. -/
def Obligations.CodecRoundTrips : Prop :=
  (∀ (s : State) (seq sid : Half) (last : Bool) (p : Frame), p.length ≤ 65529 →
    ∃ t u f, exec (.encData seq sid last p) s = .next t ∧ t.result = some ⟨0, .frame f⟩ ∧
      exec (.decData f) t = .next u ∧ u.result = some ⟨0, .dataFrame ⟨seq, sid, last, p⟩⟩) ∧
  (∀ (s t : State) (b : Frame) (d : DataFrame), b.length ≤ 65535 → exec (.decData b) s = .next t →
    t.result = some ⟨0, .dataFrame d⟩ →
    ∃ u, exec (.encData d.seq d.sid d.last d.payload) t = .next u ∧ u.result = some ⟨0, .frame b⟩) ∧
  (∀ (s : State) (k sid : Half), ∃ t u f, exec (.encAck k sid) s = .next t ∧ t.result = some ⟨0, .frame f⟩ ∧
      exec (.decAck f) t = .next u ∧ u.result = some ⟨0, .ackFrame ⟨k, sid⟩⟩) ∧
  (∀ (s : State) (b : Frame), b.length = 4 →
    ∃ t u a, exec (.decAck b) s = .next t ∧ t.result = some ⟨0, .ackFrame a⟩ ∧
      exec (.encAck a.ackNum a.sid) t = .next u ∧ u.result = some ⟨0, .frame b⟩)

/-- Words written out from the spec: one record per family (95_test_vectors.md section 3) and the frames F0, F2 and A1. -/
def Obligations.WordsOfTheSpec : Prop :=
  decode (.port { op := 0x01, seq := 0x1234, sid := 0xBEEF, last := true }) = .ok (.encData 0x1234 0xBEEF true []) ∧
  decode (.port { op := 0x10 }) = .ok .txStart ∧
  decode (.port { op := 0x12, frame := [0x00, 0x00, 0x02, 0x01], r := 0x00FF }) =
    .ok (.txAckIn [0x00, 0x00, 0x02, 0x01] 0x00FF) ∧
  decode (.port { op := 0x14 }) = .ok .txTimeout ∧
  decode (.port { op := 0x20 }) = .ok .rxStart ∧
  decode (.port { op := 0x31, csr := 0x03, data := 0x00000004 }) = .ok (.csrWrite 0x03 0x00000004) ∧
  decode (.port { op := 0x32, addr := 0x00000009, data := 0x0000004A }) = .ok (.txbufWrite 0x00000009 0x0000004A) ∧
  decode (.datagram .rx [0x00, 0x00, 0x02, 0x01, 0x41, 0x42, 0x43, 0x44, 0x00, 0x00]) =
    .ok (.data 0x0000 0x0102 [0x41, 0x42, 0x43, 0x44]) ∧
  decode (.datagram .rx [0x02, 0x00, 0x02, 0x01, 0x49, 0x4A, 0xFF, 0xFF]) = .ok (.dataLast 0x0002 0x0102 [0x49, 0x4A]) ∧
  decode (.datagram .tx [0x01, 0x00, 0x02, 0x01]) = .ok (.ack 0x0001 0x0102)

/-- A step takes a presented record: if it decodes to an instruction and the agent is the one R96 names, the step is `exec`
of that instruction with the record gone from the inputs, and nothing else around it (R73, R95, R96). -/
def Obligations.StepRunsRecord : Prop :=
  ∀ (s : State) (who : Agent) (c : OpRecord) (rest : List Input) (i : Instr),
    s.inputs = .present who c :: rest → decode (.port c) = .ok i → issuer i = who →
    step s = exec i { s with inputs := rest }

/-- A step takes an arriving datagram: a frame of the engine's kind is its frame instruction (R92, R99, R103); bytes that
are no such frame are presented as the arrival operation with a draw (model's choice, log entries 7 and 13). -/
def Obligations.StepRunsDatagram : Prop :=
  ∀ (s : State) (e : Engine) (b : Frame) (rest : List Input), s.inputs = .datagram e b :: rest →
    (∀ i, decode (.datagram e b) = .ok i → step s = exec i { s with inputs := rest }) ∧
    (∀ why, decode (.datagram e b) = .error (.malformed why) →
      ∃ r, step s = exec (match e with | .tx => .txAckIn b r | .rx => .rxFrameIn b r)
        { s with inputs := rest, fresh := s.fresh + 1 })

/-- A reserved op code is not admitted, whoever presents it: the model's refusal (R97, R245). -/
def Obligations.ReservedOpRefused : Prop :=
  ∀ (s : State) (who : Agent) (c : OpRecord) (rest : List Input), s.inputs = .present who c :: rest →
    (c.op = 0x00 ∨ (0x05 ≤ c.op.toNat ∧ c.op.toNat ≤ 0x0F) ∨ (0x15 ≤ c.op.toNat ∧ c.op.toNat ≤ 0x1F) ∨
      (0x22 ≤ c.op.toNat ∧ c.op.toNat ≤ 0x2F) ∨ 0x35 ≤ c.op.toNat) →
    step s = .refused (.reservedOp c.op)

/-- An operation from an agent other than the one R96 names is not admitted (R98). -/
def Obligations.WrongAgentRefused : Prop :=
  ∀ (s : State) (who : Agent) (c : OpRecord) (rest : List Input) (i : Instr), s.inputs = .present who c :: rest →
    decode (.port c) = .ok i →
    ((c.op ∈ [0x11, 0x14] ∧ who ≠ .txEngine) ∨ (c.op = 0x12 ∧ who ≠ .reverseChannel) ∨
      (c.op = 0x13 ∧ who ≠ .tickSource) ∨ (c.op = 0x21 ∧ who ≠ .forwardChannel) ∨
      (c.op ∉ [0x11, 0x12, 0x13, 0x14, 0x21] ∧ who ≠ .host)) →
    step s = .refused (.wrongAgent who c.op)

/-! ## Codec operations -/

/-- `ENC_DATA` (R117): its result byte by byte, and nothing else changes. -/
def Obligations.EncDataResult : Prop :=
  ∀ (s : State) (seq sid : Half) (last : Bool) (p : Frame),
    (p.length ≤ 65529 → exec (.encData seq sid last p) s = .next { s with result := some ⟨0x00, .frame
      ([seq.extractLsb' 0 8, seq.extractLsb' 8 8, sid.extractLsb' 0 8, sid.extractLsb' 8 8] ++ p ++
        (if last then [0xFF, 0xFF] else [0x00, 0x00]))⟩ }) ∧
    (65529 < p.length → exec (.encData seq sid last p) s = .next { s with result := some ⟨0x04, .frame []⟩ })

/-- `DEC_DATA` (R118): the length check, then the trailer check, then the fields. -/
def Obligations.DecDataResult : Prop :=
  ∀ (s : State) (b : Frame),
    (b.length < 6 → exec (.decData b) s = .next { s with result := some ⟨0x01, .dataFrame ⟨0, 0, false, []⟩⟩ }) ∧
    (∀ (b0 b1 b2 b3 t0 t1 : Byte) (p : Frame), b = [b0, b1, b2, b3] ++ p ++ [t0, t1] →
      exec (.decData b) s = .next { s with
        result :=
          if t0 = 0x00 ∧ t1 = 0x00 then some ⟨0x00, .dataFrame ⟨b1 ++ b0, b3 ++ b2, false, p⟩⟩
          else if t0 = 0xFF ∧ t1 = 0xFF then some ⟨0x00, .dataFrame ⟨b1 ++ b0, b3 ++ b2, true, p⟩⟩
          else some ⟨0x02, .dataFrame ⟨0, 0, false, []⟩⟩ })

/-- `ENC_ACK` and `DEC_ACK` (R119, R120). -/
def Obligations.AckCodecResults : Prop :=
  (∀ (s : State) (k sid : Half), exec (.encAck k sid) s = .next { s with result := some ⟨0x00, .frame
    [k.extractLsb' 0 8, k.extractLsb' 8 8, sid.extractLsb' 0 8, sid.extractLsb' 8 8]⟩ }) ∧
  (∀ (s : State) (b0 b1 b2 b3 : Byte), exec (.decAck [b0, b1, b2, b3]) s =
    .next { s with result := some ⟨0x00, .ackFrame ⟨b1 ++ b0, b3 ++ b2⟩⟩ }) ∧
  (∀ (s : State) (b : Frame), b.length ≠ 4 → exec (.decAck b) s =
    .next { s with result := some ⟨0x03, .ackFrame ⟨0, 0⟩⟩ })

/-! ## The TX engine -/

/-- `TX_START` with a legal configuration (R163, R164). -/
def Obligations.TxStartBegins : Prop :=
  ∀ s : State, s.tx.state ≠ .active → 1 ≤ s.tx.cfgM.toNat → s.tx.cfgM.toNat ≤ 65529 → 1 ≤ s.tx.cfgW.toNat →
    1 ≤ s.tx.cfgTimeout.toNat → s.tx.len.toNat ≤ s.params.txCap →
    (s.tx.len.toNat + s.tx.cfgM.toNat - 1) / s.tx.cfgM.toNat ≤ 65535 →
    exec .txStart s = .next { s with
      result := some ⟨0, .none⟩
      tx := { s.tx with
        nseg := BitVec.ofNat 16 (max 1 ((s.tx.len.toNat + s.tx.cfgM.toNat - 1) / s.tx.cfgM.toNat))
        base := 0, next := 0, tmrRun := false, tmrCount := 0, sent := 0, retx := 0, tStart := s.tx.time, tEnd := 0
        state := .active } }

/-- `TX_START` while running, and the checks of R162 in their order: the first that fails is recorded (unless an error is
already recorded, R240) and nothing else happens. -/
def Obligations.TxStartRefusals : Prop :=
  ∀ (s : State) (code : Half),
    ((s.tx.state = .active ∧ code = 0x0102) ∨
     (s.tx.state ≠ .active ∧ (s.tx.cfgM = 0 ∨ 65529 < s.tx.cfgM.toNat) ∧ code = 0x0101) ∨
     (s.tx.state ≠ .active ∧ 1 ≤ s.tx.cfgM.toNat ∧ s.tx.cfgM.toNat ≤ 65529 ∧
       ((s.tx.cfgW = 0 ∧ code = 0x0201) ∨
        (s.tx.cfgW ≠ 0 ∧ s.tx.cfgTimeout = 0 ∧ code = 0x0301) ∨
        (s.tx.cfgW ≠ 0 ∧ s.tx.cfgTimeout ≠ 0 ∧ s.params.txCap < s.tx.len.toNat ∧ code = 0x0401) ∨
        (s.tx.cfgW ≠ 0 ∧ s.tx.cfgTimeout ≠ 0 ∧ s.tx.len.toNat ≤ s.params.txCap ∧
          65535 < (s.tx.len.toNat + s.tx.cfgM.toNat - 1) / s.tx.cfgM.toNat ∧ code = 0x0501)))) →
    exec .txStart s = .next { s with
      result := some ⟨0, .none⟩
      tx := { s.tx with err := if s.tx.err = 0 then code else s.tx.err } }

/-- `TX_SEND` where its guard holds (R165, R166): with its segment written it emits the segment's frame; with a cell of it
unwritten it faults (R64). -/
def Obligations.TxSendEffect : Prop :=
  ∀ s : State, s.tx.state = .active → s.tx.next.toNat < s.tx.base.toNat + s.tx.cfgW.toNat →
    s.tx.next.toNat < s.tx.nseg.toNat →
    (∀ p : Frame, p.length = segLen s.tx s.tx.next.toNat →
      (∀ j, j < p.length → cellRead s.tx.buf (segOff s.tx s.tx.next.toNat + j) = p[j]?) →
      exec .txSend s = .next { s with
        result := some ⟨0, .none⟩
        tx := { s.tx with
          out := s.tx.out ++ [(encodeData s.tx.next s.tx.cfgSid (decide (s.tx.next.toNat = s.tx.nseg.toNat - 1)) p).2]
          tmrRun := if s.tx.base = s.tx.next then true else s.tx.tmrRun
          tmrCount := if s.tx.base = s.tx.next then s.tx.cfgTimeout else s.tx.tmrCount
          next := s.tx.next + 1
          sent := s.tx.sent + 1 } }) ∧
    ((∃ j, j < segLen s.tx s.tx.next.toNat ∧ cellRead s.tx.buf (segOff s.tx s.tx.next.toNat + j) = none) →
      exec .txSend s = .fault .txBufUnwritten)

/-- `TX_TIMEOUT` where its guard holds (R189, R190): with the window's segments written it emits their frames in ascending
order; with a cell of one of them unwritten it faults with no partial effect (R64). -/
def Obligations.TxTimeoutEffect : Prop :=
  ∀ s : State, s.tx.state = .active → s.tx.tmrRun = true → s.tx.tmrCount = 0 →
    (∀ fs : List Frame, fs.length = s.tx.next.toNat - s.tx.base.toNat →
      (∀ j, j < fs.length → ∃ p : Frame, p.length = segLen s.tx (s.tx.base.toNat + j) ∧
        (∀ l, l < p.length → cellRead s.tx.buf (segOff s.tx (s.tx.base.toNat + j) + l) = p[l]?) ∧
        fs[j]? = some (encodeData (BitVec.ofNat 16 (s.tx.base.toNat + j)) s.tx.cfgSid
          (decide (s.tx.base.toNat + j = s.tx.nseg.toNat - 1)) p).2) →
      exec .txTimeout s = .next { s with
        result := some ⟨0, .none⟩
        tx := { s.tx with
          out := s.tx.out ++ fs
          retx := s.tx.retx + BitVec.ofNat 32 fs.length
          sent := s.tx.sent + BitVec.ofNat 32 fs.length
          tmrRun := true
          tmrCount := s.tx.cfgTimeout } }) ∧
    ((∃ i j, s.tx.base.toNat ≤ i ∧ i < s.tx.next.toNat ∧ j < segLen s.tx i ∧
        cellRead s.tx.buf (segOff s.tx i + j) = none) →
      exec .txTimeout s = .fault .txBufUnwritten)

/-- Where the guard of an internal operation is false it has no step (R10, R165, R172, R189): in this model the engine
waits with nothing changed (log entry 5, the model's choice). -/
def Obligations.InternalOperationsWait : Prop :=
  (∀ s : State, (s.tx.state ≠ .active ∨ s.tx.base.toNat + s.tx.cfgW.toNat ≤ s.tx.next.toNat ∨
      s.tx.nseg.toNat ≤ s.tx.next.toNat) → exec .txSend s = .next s) ∧
  (∀ s : State, (s.tx.state ≠ .active ∨ s.tx.tmrRun = false ∨ s.tx.tmrCount ≠ 0) → exec .txTimeout s = .next s)

/-- `TX_ACK_IN` with a duplicate or advancing ack that is not lost (R167 to R170): the window advances, the timer stops or
restarts, and the transfer completes when every segment is acknowledged. -/
def Obligations.AckAdvancesWindow : Prop :=
  ∀ (s : State) (a0 a1 i0 i1 : Byte) (r : Half), s.tx.state = .active →
    (s.tx.ctrl.getLsbD 0 = false ∨ s.tx.cfgLoss.toNat ≤ r.toNat) →
    (a1 ++ a0 : Half).toNat < s.tx.next.toNat → s.tx.base.toNat ≤ (a1 ++ a0 : Half).toNat + 1 →
    exec (.txAckIn [a0, a1, i0, i1] r) s = .next { s with
      result := some ⟨0, .none⟩
      tx := { s.tx with
        base := (a1 ++ a0 : Half) + 1
        tmrRun := decide ((a1 ++ a0 : Half) + 1 ≠ s.tx.next)
        tmrCount := if (a1 ++ a0 : Half) + 1 = s.tx.next then 0 else s.tx.cfgTimeout
        state := if (a1 ++ a0 : Half) + 1 = s.tx.nseg then .done else .active
        tEnd := if (a1 ++ a0 : Half) + 1 = s.tx.nseg then s.tx.time else s.tx.tEnd } }

/-- `TX_ACK_IN` that is dropped (R168, R171, R202 (b), R203, R237): outside `ACTIVE`, lost by the simulator, of the wrong
length, ahead, or stale. Only the port's result is written. -/
def Obligations.AckIgnored : Prop :=
  ∀ (s : State) (b : Frame) (r : Half),
    (s.tx.state ≠ .active ∨ (s.tx.ctrl.getLsbD 0 = true ∧ r.toNat < s.tx.cfgLoss.toNat) ∨ b.length ≠ 4 ∨
      (∃ a0 a1 i0 i1, b = [a0, a1, i0, i1] ∧ (s.tx.next.toNat ≤ (a1 ++ a0 : Half).toNat ∨
        (a1 ++ a0 : Half).toNat + 1 < s.tx.base.toNat))) →
    exec (.txAckIn b r) s = .next { s with result := some ⟨0, .none⟩ }

/-- An ack frame that arrives as a datagram (R89, R103, R167) is, in every state, `TX_ACK_IN` of its four bytes with some
draw: taken, ahead, stale, lost or outside `ACTIVE` as `AckAdvancesWindow` and `AckIgnored` say. With ack-path loss off it
is so whatever the draw. The draw comes from the model's free values (log entries 7 and 13). -/
def Obligations.AckFrameArrives : Prop :=
  (∀ (s : State) (k sid : Half), ∃ r : Half, exec (.ack k sid) s =
    exec (.txAckIn [k.extractLsb' 0 8, k.extractLsb' 8 8, sid.extractLsb' 0 8, sid.extractLsb' 8 8] r)
      { s with fresh := s.fresh + 1 }) ∧
  ∀ (s : State) (k sid : Half), s.tx.state = .active → s.tx.ctrl.getLsbD 0 = false →
    k.toNat < s.tx.next.toNat → s.tx.base.toNat ≤ k.toNat + 1 →
    exec (.ack k sid) s = .next { s with
      result := some ⟨0, .none⟩
      fresh := s.fresh + 1
      tx := { s.tx with
        base := k + 1
        tmrRun := decide (k + 1 ≠ s.tx.next)
        tmrCount := if k + 1 = s.tx.next then 0 else s.tx.cfgTimeout
        state := if k + 1 = s.tx.nseg then .done else .active
        tEnd := if k + 1 = s.tx.nseg then s.tx.time else s.tx.tEnd } }

/-- `TX_TICK` (R188), in every state. -/
def Obligations.TickEffect : Prop :=
  ∀ s : State, exec .txTick s = .next { s with
    result := some ⟨0, .none⟩
    tx := { s.tx with
      time := s.tx.time + 1
      tmrCount := if s.tx.tmrRun = true ∧ 0 < s.tx.tmrCount.toNat then s.tx.tmrCount - 1 else s.tx.tmrCount } }

/-! ## The RX engine -/

/-- `RX_START` (R137): `BUSY` while running, `CONFIG` on an illegal segment size, else a new transfer. -/
def Obligations.RxStartEffect : Prop :=
  ∀ s : State,
    (s.rx.state ≠ .await → 1 ≤ s.rx.cfgM.toNat → s.rx.cfgM.toNat ≤ 65529 →
      exec .rxStart s = .next { s with
        result := some ⟨0, .none⟩
        rx := { s.rx with state := .await, expected := 0, len := 0, accepted := 0 } }) ∧
    (s.rx.state = .await → exec .rxStart s = .next { s with
        result := some ⟨0, .none⟩
        rx := { s.rx with err := if s.rx.err = 0 then 0x0102 else s.rx.err } }) ∧
    (s.rx.state ≠ .await → (s.rx.cfgM = 0 ∨ 65529 < s.rx.cfgM.toNat) → exec .rxStart s = .next { s with
        result := some ⟨0, .none⟩
        rx := { s.rx with err := if s.rx.err = 0 then 0x0101 else s.rx.err } })

/-- An accepting `RX_FRAME_IN` (R138 to R140, R142, R143): the payload stands at `RXBUF[RX_LEN ..]` and every other cell is
as before, the ack names the accepted index, and a final frame completes. The frame is given by its fields. -/
def Obligations.FrameAccepted : Prop :=
  ∀ (s : State) (seq sid r : Half) (last : Bool) (p : Frame), s.rx.state = .await →
    s.rx.cfgLoss.toNat ≤ r.toNat → p.length ≤ s.rx.cfgM.toNat → seq = s.rx.expected → s.rx.expected ≠ 0xFFFF →
    s.rx.len.toNat + p.length ≤ s.params.rxCap →
    ∃ buf : Memory,
      (∀ a, cellRead buf a =
        if s.rx.len.toNat ≤ a ∧ a < s.rx.len.toNat + p.length then p[a - s.rx.len.toNat]? else cellRead s.rx.buf a) ∧
      exec (.rxFrameIn (le16 seq ++ le16 sid ++ p ++ trailer last) r) s = .next { s with
        result := some ⟨0, .none⟩
        rx := { s.rx with
          buf := buf
          len := BitVec.ofNat 32 (s.rx.len.toNat + p.length)
          out := s.rx.out ++ [le16 seq ++ le16 sid]
          expected := s.rx.expected + 1
          accepted := s.rx.accepted + 1
          state := if last then .done else .await } }

/-- A mismatched `RX_FRAME_IN` (R141): nothing is assembled; the last accepted segment is acknowledged again, and nothing
is sent before the first acceptance. The frame is given by its fields. -/
def Obligations.FrameMismatched : Prop :=
  ∀ (s : State) (seq sid r : Half) (last : Bool) (p : Frame), s.rx.state = .await →
    s.rx.cfgLoss.toNat ≤ r.toNat → p.length ≤ s.rx.cfgM.toNat → (seq ≠ s.rx.expected ∨ s.rx.expected = 0xFFFF) →
    exec (.rxFrameIn (le16 seq ++ le16 sid ++ p ++ trailer last) r) s = .next { s with
      result := some ⟨0, .none⟩
      rx := { s.rx with
        out := if s.rx.expected = 0 then s.rx.out else s.rx.out ++ [le16 (s.rx.expected - 1) ++ le16 sid] } }

/-- An `RX_FRAME_IN` that is dropped (R144, R145, R146, R202 (a), R203): outside `AWAIT`, lost by the simulator, shorter
than six bytes, with a reserved trailer, or with a payload longer than `RX_CFG_M`. Only the port's result is written. -/
def Obligations.FrameDropped : Prop :=
  ∀ (s : State) (b : Frame) (r : Half),
    (s.rx.state ≠ .await ∨ r.toNat < s.rx.cfgLoss.toNat ∨ b.length < 6 ∨
      (∃ (h p : Frame) (t0 t1 : Byte), b = h ++ p ++ [t0, t1] ∧ h.length = 4 ∧
        ((¬ (t0 = 0x00 ∧ t1 = 0x00) ∧ ¬ (t0 = 0xFF ∧ t1 = 0xFF)) ∨ s.rx.cfgM.toNat < p.length))) →
    exec (.rxFrameIn b r) s = .next { s with result := some ⟨0, .none⟩ }

/-- An `RX_FRAME_IN` that would overflow `RXBUF` (R147, R235): the error is recorded, the frame is not accepted and no ack
is sent. -/
def Obligations.FrameOverflows : Prop :=
  ∀ (s : State) (seq sid r : Half) (last : Bool) (p : Frame), s.rx.state = .await →
    s.rx.cfgLoss.toNat ≤ r.toNat → p.length ≤ s.rx.cfgM.toNat → seq = s.rx.expected → s.rx.expected ≠ 0xFFFF →
    s.params.rxCap < s.rx.len.toNat + p.length →
    exec (.rxFrameIn (le16 seq ++ le16 sid ++ p ++ trailer last) r) s = .next { s with
      result := some ⟨0, .none⟩
      rx := { s.rx with err := if s.rx.err = 0 then 0x0003 else s.rx.err } }

/-- A data frame that arrives as a datagram (R86, R88, R103, R138) is, in every state, `RX_FRAME_IN` of its bytes with some
draw, the final mark its trailer: accepted, mismatched, overflowing or dropped as the statements about `RX_FRAME_IN` say.
With zero loss it is so whatever the draw, as the accepting case shows. The draw comes from the model's free values (log
entries 7 and 13). -/
def Obligations.DataFrameArrives : Prop :=
  (∀ (s : State) (seq sid : Half) (p : Frame), p.length ≤ 65529 →
    (∃ r : Half, exec (.data seq sid p) s =
      exec (.rxFrameIn (le16 seq ++ le16 sid ++ p ++ [0x00, 0x00]) r) { s with fresh := s.fresh + 1 }) ∧
    ∃ r : Half, exec (.dataLast seq sid p) s =
      exec (.rxFrameIn (le16 seq ++ le16 sid ++ p ++ [0xFF, 0xFF]) r) { s with fresh := s.fresh + 1 }) ∧
  ∀ (s : State) (seq sid : Half) (last : Bool) (p : Frame), s.rx.state = .await → s.rx.cfgLoss = 0 →
    p.length ≤ 65529 → p.length ≤ s.rx.cfgM.toNat → seq = s.rx.expected → s.rx.expected ≠ 0xFFFF →
    s.rx.len.toNat + p.length ≤ s.params.rxCap →
    ∃ buf : Memory,
      (∀ a, cellRead buf a =
        if s.rx.len.toNat ≤ a ∧ a < s.rx.len.toNat + p.length then p[a - s.rx.len.toNat]? else cellRead s.rx.buf a) ∧
      exec (if last then .dataLast seq sid p else .data seq sid p) s = .next { s with
        result := some ⟨0, .none⟩
        fresh := s.fresh + 1
        rx := { s.rx with
          buf := buf
          len := BitVec.ofNat 32 (s.rx.len.toNat + p.length)
          out := s.rx.out ++ [le16 seq ++ le16 sid]
          expected := s.rx.expected + 1
          accepted := s.rx.accepted + 1
          state := if last then .done else .await } }

/-- Idempotence (R148): a frame below `RX_EXPECTED` never changes `RXBUF`, `RX_LEN`, `RX_EXPECTED` or `RX_ACCEPTED`, and
where it is not dropped it elicits the ack of the last accepted frame. So a non-final frame that was accepted and is
delivered again, with a draw that passes, changes nothing but `RX_OUT`, which receives the same ack once more. -/
def Obligations.RedeliveryIdempotent : Prop :=
  (∀ (s : State) (seq sid r : Half) (last : Bool) (p : Frame), seq.toNat < s.rx.expected.toNat →
    ∃ t, exec (.rxFrameIn (le16 seq ++ le16 sid ++ p ++ trailer last) r) s = .next t ∧
      t.rx.buf = s.rx.buf ∧ t.rx.len = s.rx.len ∧ t.rx.expected = s.rx.expected ∧ t.rx.accepted = s.rx.accepted ∧
      (s.rx.state = .await → s.rx.cfgLoss.toNat ≤ r.toNat → p.length ≤ s.rx.cfgM.toNat →
        t.rx.out = s.rx.out ++ [le16 (s.rx.expected - 1) ++ le16 sid])) ∧
  (∀ (s t : State) (b : Frame) (r r' : Half), exec (.rxFrameIn b r) s = .next t → t.rx.state = .await →
    t.rx.expected ≠ s.rx.expected → s.rx.cfgLoss.toNat ≤ r'.toNat →
    ∃ ack : Frame, t.rx.out = s.rx.out ++ [ack] ∧
      exec (.rxFrameIn b r') t = .next { t with
        result := some ⟨0, .none⟩, rx := { t.rx with out := t.rx.out ++ [ack] } })

/-! ## The host interface -/

/-- `CSR_READ` (R54, R56, R211): the value of every mapped register, 0 at every other index, and no side effect (R71). -/
def Obligations.CsrReadValues : Prop :=
  ∀ (s : State) (c : BitVec 6), exec (.csrRead c) s = .next { s with result := some ⟨0, .data (match c.toNat with
    | 0x00 => if s.tx.ctrl.getLsbD 0 then 1 else 0
    | 0x01 => (match s.tx.state with | .idle => 0 | .active => 1 | .done => 2) + (if s.tx.tmrRun then 4 else 0)
    | 0x02 => s.tx.err.setWidth 32
    | 0x03 => s.tx.cfgM.setWidth 32
    | 0x04 => s.tx.cfgW.setWidth 32
    | 0x05 => s.tx.cfgTimeout
    | 0x06 => s.tx.cfgSid.setWidth 32
    | 0x07 => s.tx.cfgLoss.setWidth 32
    | 0x08 => s.tx.len
    | 0x09 => s.tx.base.setWidth 32
    | 0x0A => s.tx.next.setWidth 32
    | 0x0B => s.tx.nseg.setWidth 32
    | 0x0C => s.tx.tmrCount
    | 0x0D => s.tx.time
    | 0x0E => s.tx.sent
    | 0x0F => s.tx.retx
    | 0x10 => s.tx.tStart
    | 0x11 => s.tx.tEnd
    | 0x20 => (match s.rx.state with | .idle => 0 | .await => 1 | .done => 2)
    | 0x21 => s.rx.err.setWidth 32
    | 0x22 => s.rx.cfgM.setWidth 32
    | 0x23 => s.rx.cfgLoss.setWidth 32
    | 0x24 => s.rx.expected.setWidth 32
    | 0x25 => s.rx.len
    | 0x26 => s.rx.accepted
    | _ => 0)⟩ }

/-- `CSR_WRITE` to a configuration register (R55, R212): stored while its engine is not running, `BUSY` while it is. -/
def Obligations.CsrWriteConfiguration : Prop :=
  ∀ (s : State) (d : Word),
    (∀ (c : BitVec 6) (x : TxEngine),
      ((c = 0x00 ∧ x = { s.tx with ctrl := if d.getLsbD 0 then 1 else 0 }) ∨
       (c = 0x03 ∧ x = { s.tx with cfgM := d.extractLsb' 0 16 }) ∨
       (c = 0x04 ∧ x = { s.tx with cfgW := d.extractLsb' 0 16 }) ∨
       (c = 0x05 ∧ x = { s.tx with cfgTimeout := d }) ∨
       (c = 0x06 ∧ x = { s.tx with cfgSid := d.extractLsb' 0 16 }) ∨
       (c = 0x07 ∧ x = { s.tx with cfgLoss := d.extractLsb' 0 16 }) ∨
       (c = 0x08 ∧ x = { s.tx with len := d })) →
      exec (.csrWrite c d) s = .next { s with
        result := some ⟨0, .none⟩
        tx := if s.tx.state = .active then { s.tx with err := if s.tx.err = 0 then 0x0202 else s.tx.err } else x }) ∧
    (∀ (c : BitVec 6) (x : RxEngine),
      ((c = 0x22 ∧ x = { s.rx with cfgM := d.extractLsb' 0 16 }) ∨
       (c = 0x23 ∧ x = { s.rx with cfgLoss := d.extractLsb' 0 16 })) →
      exec (.csrWrite c d) s = .next { s with
        result := some ⟨0, .none⟩
        rx := if s.rx.state = .await then { s.rx with err := if s.rx.err = 0 then 0x0202 else s.rx.err } else x })

/-- `CSR_WRITE` to an error register clears it in any state (R241); to a read-only register or an unmapped index it has no
effect (R54, R56, R212). -/
def Obligations.CsrWriteOthers : Prop :=
  ∀ (s : State) (d : Word),
    exec (.csrWrite 0x02 d) s = .next { s with result := some ⟨0, .none⟩, tx := { s.tx with err := 0 } } ∧
    exec (.csrWrite 0x21 d) s = .next { s with result := some ⟨0, .none⟩, rx := { s.rx with err := 0 } } ∧
    (∀ c : BitVec 6, c.toNat ∉ [0x00, 0x02, 0x03, 0x04, 0x05, 0x06, 0x07, 0x08, 0x21, 0x22, 0x23] →
      exec (.csrWrite c d) s = .next { s with result := some ⟨0, .none⟩ })

/-- `TXBUF_WRITE` (R213): `BUSY` while a transfer runs, then `RANGE` at or beyond `TXCAP`, else the one cell is written and
every other cell is as before. -/
def Obligations.TxbufWriteEffect : Prop :=
  ∀ (s : State) (a d : Word),
    (s.tx.state = .active → exec (.txbufWrite a d) s = .next { s with
      result := some ⟨0, .none⟩, tx := { s.tx with err := if s.tx.err = 0 then 0x0302 else s.tx.err } }) ∧
    (s.tx.state ≠ .active → s.params.txCap ≤ a.toNat → exec (.txbufWrite a d) s = .next { s with
      result := some ⟨0, .none⟩, tx := { s.tx with err := if s.tx.err = 0 then 0x0104 else s.tx.err } }) ∧
    (s.tx.state ≠ .active → a.toNat < s.params.txCap →
      ∃ buf : Memory, (∀ b, cellRead buf b = if b = a.toNat then some (d.extractLsb' 0 8) else cellRead s.tx.buf b) ∧
        exec (.txbufWrite a d) s = .next { s with result := some ⟨0, .none⟩, tx := { s.tx with buf := buf } })

/-- `RXBUF_READ` (R214): below `RX_LEN` the byte of `RXBUF`, in every state that meets the reassembly invariant; at or beyond
`RX_LEN` it records `RANGE` and returns some byte, about which nothing else is said (it may advance the model's own count of
free values, log entry 6). Reads are idempotent (R71): in every state, this read and the two others repeated with no other
step between return the same and change nothing. -/
def Obligations.RxbufReadEffect : Prop :=
  ∀ (s : State) (a : Word),
    (RxInv s → a.toNat < s.rx.len.toNat → ∃ v : Byte, cellRead s.rx.buf a.toNat = some v ∧
      exec (.rxbufRead a) s = .next { s with result := some ⟨0, .data (v.setWidth 32)⟩ }) ∧
    (s.rx.len.toNat ≤ a.toNat → ∃ (v : Byte) (r : PortValue) (n : Nat), portData r = some (v.setWidth 32) ∧
      exec (.rxbufRead a) s = .next { s with
        result := some ⟨0, r⟩
        fresh := n
        rx := { s.rx with err := if s.rx.err = 0 then 0x0204 else s.rx.err } }) ∧
    ∀ (i : Instr) (t : State), (i = .rxbufRead a ∨ (∃ c, i = .csrRead c) ∨ i = .statsSnapshot) →
      exec i s = .next t → exec i t = .next t

/-- `STATS_SNAPSHOT` (R215). -/
def Obligations.StatsSnapshotValues : Prop :=
  ∀ s : State, exec .statsSnapshot s = .next { s with
    result := some ⟨0, .stats s.tx.sent s.tx.retx s.rx.accepted s.tx.tStart s.tx.tEnd s.tx.time⟩ }

/-! ## Reset, channels, the engine's own steps -/

/-- The state after reset (R59, R264): every register at its value, the queues empty, `TXBUF` unwritten, no status line
asserted; and in every state the four status lines are the functions of it that R243 gives. -/
def Obligations.ResetValues : Prop :=
  State.reset.tx = {
    state := .idle, base := 0xFFFF, next := 0xFFFF, nseg := 0, len := 0, tmrRun := false, tmrCount := 0, time := 0
    sent := 0, retx := 0, tStart := 0, tEnd := 0, err := 0, ctrl := 0, cfgM := 0, cfgW := 0, cfgTimeout := 0
    cfgSid := 0, cfgLoss := 0, buf := State.reset.tx.buf, out := [] } ∧
  State.reset.rx = {
    state := .idle, expected := 0, len := 0, accepted := 0, err := 0, cfgM := 0, cfgLoss := 0
    buf := State.reset.rx.buf, out := [] } ∧
  (∀ a, cellRead State.reset.tx.buf a = none) ∧
  lineTxDone State.reset = false ∧ lineRxDone State.reset = false ∧ lineTxErr State.reset = false ∧
  lineRxErr State.reset = false ∧
  ∀ s : State, (lineTxDone s = true ↔ s.tx.state = .done) ∧ (lineRxDone s = true ↔ s.rx.state = .done) ∧
    (lineTxErr s = true ↔ s.tx.err ≠ 0) ∧ (lineRxErr s = true ↔ s.rx.err ≠ 0)

/-- The `RESET` input (R261 to R263): from every state one step sets every register and queue to its reset value, leaves no
cell of `TXBUF` written and changes no parameter. That `RXBUF`, whose contents the spec leaves unspecified, then lists no
cell either is the model's choice (log entry 11), and so is that the waiting inputs stay (log entry 14). -/
def Obligations.ResetInput : Prop :=
  ∀ (s : State) (rest : List Input), s.inputs = .reset :: rest →
    ∃ t, step s = .next t ∧ t.tx = State.reset.tx ∧ t.rx = State.reset.rx ∧ t.params = s.params ∧ t.inputs = rest

/-- The reference channels (R76, R101): losing takes the head away. Entry `k` may be delivered beyond the head exactly with
`CH_REORDER`, and kept exactly with `CH_DUP`; a delivery presents it, bytes unchanged, as the arrival operation. The
refusal of a delivery the parameters forbid, or of a frame no record can carry, and the step that changes nothing where the
queue holds no such entry, are the model's choice (log entries 10 and 16). A loss of a frame leaves the data on the port as it is,
but a read after it is no repetition (R71, log entry 6); on an empty queue it changes nothing. -/
def Obligations.ChannelSteps : Prop :=
  (∀ (s : State) (rest : List Input), s.inputs = .forward .lose :: rest →
    (s.tx.out = [] → step s = .next { s with inputs := rest }) ∧
    ∀ f q, s.tx.out = f :: q → step s = .next { s with
      inputs := rest, tx := { s.tx with out := q }, result := intervened s.result }) ∧
  (∀ (s : State) (rest : List Input), s.inputs = .reverse .lose :: rest →
    (s.rx.out = [] → step s = .next { s with inputs := rest }) ∧
    ∀ f q, s.rx.out = f :: q → step s = .next { s with
      inputs := rest, rx := { s.rx with out := q }, result := intervened s.result }) ∧
  (∀ r : Option PortResult, ((intervened r).bind fun p => portData p.value) = r.bind fun p => portData p.value) ∧
  (∀ (s : State) (k : Nat) (keep : Bool) (r : Half) (rest : List Input), s.inputs = .forward (.deliver k keep r) :: rest →
    ((0 < k ∧ s.params.chReorder = false) ∨ (keep = true ∧ s.params.chDup = false) →
      step s = .refused .channelForbids) ∧
    ((k = 0 ∨ s.params.chReorder = true) → (keep = false ∨ s.params.chDup = true) →
      (s.tx.out.length ≤ k → step s = .next { s with inputs := rest }) ∧
      ∀ f, s.tx.out[k]? = some f →
        (f.length ≤ 65535 → step s = exec (.rxFrameIn f r) { s with
          inputs := rest, tx := { s.tx with out := if keep then s.tx.out else s.tx.out.eraseIdx k } }) ∧
        (65535 < f.length → step s = .refused .badRecord))) ∧
  (∀ (s : State) (k : Nat) (keep : Bool) (r : Half) (rest : List Input), s.inputs = .reverse (.deliver k keep r) :: rest →
    ((0 < k ∧ s.params.chReorder = false) ∨ (keep = true ∧ s.params.chDup = false) →
      step s = .refused .channelForbids) ∧
    ((k = 0 ∨ s.params.chReorder = true) → (keep = false ∨ s.params.chDup = true) →
      (s.rx.out.length ≤ k → step s = .next { s with inputs := rest }) ∧
      ∀ f, s.rx.out[k]? = some f →
        (f.length ≤ 65535 → step s = exec (.txAckIn f r) { s with
          inputs := rest, rx := { s.rx with out := if keep then s.rx.out else s.rx.out.eraseIdx k } }) ∧
        (65535 < f.length → step s = .refused .badRecord)))

/-- The TX engine's own steps (R98, R246): with nothing presented it takes `TX_SEND` or `TX_TIMEOUT` whenever a guard holds,
either of them where both hold (the order is open; which one is a free value, log entry 8), and otherwise nothing
changes. -/
def Obligations.OwnSteps : Prop :=
  ∀ s : State, s.inputs = [] →
    (txSendEnabled s.tx = true → txTimeoutEnabled s.tx = false → step s = exec .txSend s) ∧
    (txSendEnabled s.tx = false → txTimeoutEnabled s.tx = true → step s = exec .txTimeout s) ∧
    (txSendEnabled s.tx = true → txTimeoutEnabled s.tx = true →
      step s = exec .txSend { s with fresh := s.fresh + 1 } ∨
      step s = exec .txTimeout { s with fresh := s.fresh + 1 }) ∧
    (txSendEnabled s.tx = false → txTimeoutEnabled s.tx = false → step s = .next s)

/-! ## Rules over all operations -/

/-- No operation is refused by `exec`, and the only fault is `TxBufUnwritten`, in `TX_SEND` and `TX_TIMEOUT` (R244). That
these two answer a next state where their guard is false is the model's choice (log entry 5). -/
def Obligations.OnlyUnwrittenFetchFaults : Prop :=
  ∀ (i : Instr) (s : State), (∃ t, exec i s = .next t) ∨
    ((i = .txSend ∨ i = .txTimeout) ∧ exec i s = .fault .txBufUnwritten)

/-- Within `TX_LEN` written, no send or retransmission faults (R63, R64, R216): in every state that meets the transfer and
window invariants, if every cell of `[0, TX_LEN)` is written, every operation completes. That `TX_SEND` and `TX_TIMEOUT` do
so where their guard is false is the model's choice (log entry 5). -/
def Obligations.LoadedStreamNeverFaults : Prop :=
  ∀ (i : Instr) (s : State), TxInv s.tx → TransferInv s →
    (∀ a, a < s.tx.len.toNat → cellRead s.tx.buf a ≠ none) → ∃ t, exec i s = .next t

/-- The engines share no register, buffer or queue (R21): only TX operations change the TX engine and only RX operations
the RX engine (R74). -/
def Obligations.EnginesDisjoint : Prop :=
  ∀ (i : Instr) (s t : State), exec i s = .next t →
    (t.tx ≠ s.tx → i = .txStart ∨ i = .txSend ∨ (∃ b r, i = .txAckIn b r) ∨ i = .txTick ∨ i = .txTimeout ∨
      (∃ k sid, i = .ack k sid) ∨ (∃ a d, i = .txbufWrite a d) ∨ (∃ c d, i = .csrWrite c d ∧ c.toNat < 0x20)) ∧
    (t.rx ≠ s.rx → i = .rxStart ∨ (∃ b r, i = .rxFrameIn b r) ∨ (∃ seq sid p, i = .data seq sid p) ∨
      (∃ seq sid p, i = .dataLast seq sid p) ∨ (∃ a, i = .rxbufRead a) ∨
      (∃ c d, i = .csrWrite c d ∧ 0x20 ≤ c.toNat)) ∧
    t.params = s.params ∧ t.inputs = s.inputs

/-- No operation sees the other engine (R21, R73, D11): the TX engine after an operation depends on the TX engine, the
parameters and the draw only, and the RX engine on the RX engine, the parameters and the draw only. -/
def Obligations.EnginesDoNotSeeEachOther : Prop :=
  (∀ (i : Instr) (s s' t : State), s'.tx = s.tx → s'.params = s.params → s'.fresh = s.fresh → exec i s = .next t →
    ∃ t', exec i s' = .next t' ∧ t'.tx = t.tx) ∧
  (∀ (i : Instr) (s s' t t' : State), s'.rx = s.rx → s'.params = s.params → s'.fresh = s.fresh → exec i s = .next t →
    exec i s' = .next t' → t'.rx = t.rx)

/-- First error kept (R240, R241): while an error register is non-zero, no operation but a write to it changes it. -/
def Obligations.FirstErrorKept : Prop :=
  ∀ (i : Instr) (s t : State), exec i s = .next t →
    (s.tx.err ≠ 0 → (∀ d, i ≠ .csrWrite 0x02 d) → t.tx.err = s.tx.err) ∧
    (s.rx.err ≠ 0 → (∀ d, i ≠ .csrWrite 0x21 d) → t.rx.err = s.rx.err)

/-- Configuration and stream are fixed during a transfer (R79, R267): while `ACTIVE` no operation changes a TX
configuration register, `TX_LEN`, `TX_NSEG` or `TXBUF`; while `AWAIT` none changes an RX configuration register. -/
def Obligations.RunningConfigurationFixed : Prop :=
  ∀ (i : Instr) (s t : State), exec i s = .next t →
    (s.tx.state = .active → t.tx.cfgM = s.tx.cfgM ∧ t.tx.cfgW = s.tx.cfgW ∧ t.tx.cfgTimeout = s.tx.cfgTimeout ∧
      t.tx.cfgSid = s.tx.cfgSid ∧ t.tx.cfgLoss = s.tx.cfgLoss ∧ t.tx.ctrl = s.tx.ctrl ∧ t.tx.len = s.tx.len ∧
      t.tx.nseg = s.tx.nseg ∧ t.tx.buf = s.tx.buf) ∧
    (s.rx.state = .await → t.rx.cfgM = s.rx.cfgM ∧ t.rx.cfgLoss = s.rx.cfgLoss)

/-- Monotonicity within a transfer (R173): `TX_BASE` and `TX_NEXT` never decrease, `TX_NEXT` increases only by `TX_SEND`
and by exactly 1, `TX_BASE` changes only by an ack. -/
def Obligations.WindowMonotonic : Prop :=
  ∀ (i : Instr) (s t : State), s.tx.state = .active → exec i s = .next t →
    s.tx.base.toNat ≤ t.tx.base.toNat ∧ s.tx.next.toNat ≤ t.tx.next.toNat ∧
    (t.tx.next ≠ s.tx.next → i = .txSend ∧ t.tx.next.toNat = s.tx.next.toNat + 1) ∧
    (t.tx.base ≠ s.tx.base → (∃ b r, i = .txAckIn b r) ∨ ∃ k sid, i = .ack k sid)

/-- The receive side never goes back within a transfer (R43, R53 (d), R65): `RX_EXPECTED` stays or increases by exactly 1,
`RX_LEN` does not decrease, and the bytes already below `RX_LEN` stay as they are. -/
def Obligations.ReassemblyMonotonic : Prop :=
  ∀ (i : Instr) (s t : State), s.rx.state = .await → s.params.wf → exec i s = .next t →
    (t.rx.expected.toNat = s.rx.expected.toNat ∨ t.rx.expected.toNat = s.rx.expected.toNat + 1) ∧
    s.rx.len.toNat ≤ t.rx.len.toNat ∧
    ∀ a, a < s.rx.len.toNat → cellRead t.rx.buf a = cellRead s.rx.buf a

/-- The transitions of R136 and R161: which operation moves each engine between its states, and when. -/
def Obligations.StateTransitions : Prop :=
  ∀ (i : Instr) (s t : State), exec i s = .next t →
    (t.tx.state ≠ s.tx.state →
      (s.tx.state ≠ .active ∧ t.tx.state = .active ∧ i = .txStart) ∨
      (s.tx.state = .active ∧ t.tx.state = .done ∧ t.tx.base = t.tx.nseg ∧
        ((∃ b r, i = .txAckIn b r) ∨ ∃ k sid, i = .ack k sid))) ∧
    (t.rx.state ≠ s.rx.state →
      (s.rx.state ≠ .await ∧ t.rx.state = .await ∧ i = .rxStart) ∨
      (s.rx.state = .await ∧ t.rx.state = .done ∧ t.rx.expected.toNat = s.rx.expected.toNat + 1 ∧
        ((∃ b r, i = .rxFrameIn b r) ∨ ∃ seq sid p, i = .dataLast seq sid p)))

/-- The engine only appends to its output queues, and only `TX_SEND` and `TX_TIMEOUT` to `TX_OUT` (R49). -/
def Obligations.QueuesOnlyGrow : Prop :=
  ∀ (i : Instr) (s t : State), exec i s = .next t →
    (∃ new, t.tx.out = s.tx.out ++ new ∧ (new ≠ [] → i = .txSend ∨ i = .txTimeout)) ∧
    (∃ new, t.rx.out = s.rx.out ++ new ∧ (new ≠ [] → (∃ b r, i = .rxFrameIn b r) ∨
      (∃ seq sid p, i = .data seq sid p) ∨ ∃ seq sid p, i = .dataLast seq sid p))

/-- Ack bounds (R149): an ack the RX engine emits names an index below `RX_EXPECTED` at the time it is emitted, at most
0xFFFE; the ack of an accepted frame names that frame's index. -/
def Obligations.AckBounds : Prop :=
  ∀ (i : Instr) (s t : State), exec i s = .next t → t.rx.out ≠ s.rx.out →
    ∃ k sid : Half, t.rx.out = s.rx.out ++ [le16 k ++ le16 sid] ∧ k.toNat + 1 ≤ t.rx.expected.toNat ∧
      k.toNat ≤ 0xFFFE ∧ (t.rx.expected ≠ s.rx.expected → k = s.rx.expected)

/-! ## Invariants and end-to-end results -/

/-- The window and timer invariants (R52, R193) survive every step, whatever is presented. -/
def Obligations.StepKeepsWindow : Prop :=
  ∀ s t : State, TxInv s.tx → step s = .next t → TxInv t.tx

/-- The reassembly invariant (R44, R53 (a)) survives every step. -/
def Obligations.StepKeepsReassembly : Prop :=
  ∀ s t : State, s.params.wf → RxInv s → step s = .next t → RxInv t

/-- The byte spaces stay in canonical form and within their capacities through every step (R61, R62, R65). -/
def Obligations.StepKeepsBuffers : Prop :=
  ∀ s t : State, BufInv s → step s = .next t → BufInv t

/-- Every frame in the output queues stays one its engine may send (R87, R88, R89, R93): no data frame or ack ever names the
sentinel 0xFFFF. -/
def Obligations.StepKeepsQueuesLegal : Prop :=
  ∀ s t : State, TxInv s.tx → TransferInv s → QueueInv s → step s = .next t → TransferInv t ∧ QueueInv t

/-- Reset establishes every invariant, `LoopInv` for every stream and segment size a transfer can have. -/
def Obligations.ResetMeetsInvariants : Prop :=
  State.reset.params.wf ∧ TxInv State.reset.tx ∧ TransferInv State.reset ∧ RxInv State.reset ∧ BufInv State.reset ∧
    QueueInv State.reset ∧ AckInv State.reset ∧
    ∀ (stream : Frame) (m : Nat), 1 ≤ m → m ≤ 65529 → streamSegments stream m ≤ 65535 → LoopInv stream m State.reset

/-- Segment geometry (R63): in a running transfer the segments are consecutive, all of `CFG_M` bytes but the last, whose
length is in 0..`CFG_M`, and the last one ends at `TX_LEN`. -/
def Obligations.SegmentsPartitionStream : Prop :=
  ∀ s : State, s.tx.state = .active → TransferInv s →
    (∀ i, i < s.tx.nseg.toNat → segLen s.tx i ≤ s.tx.cfgM.toNat ∧
      segOff s.tx i + segLen s.tx i ≤ s.tx.len.toNat ∧
      (i + 1 < s.tx.nseg.toNat → segLen s.tx i = s.tx.cfgM.toNat ∧
        segOff s.tx (i + 1) = segOff s.tx i + segLen s.tx i) ∧
      (i + 1 = s.tx.nseg.toNat → segOff s.tx i + segLen s.tx i = s.tx.len.toNat) ∧
      (segLen s.tx i = 0 ↔ s.tx.len = 0)) ∧
    segOff s.tx 0 = 0

/-- One hop, end to end (R63, R65, R166, R138): the frame `TX_SEND` emits, delivered to an RX engine that expects it and has
room, appends exactly the bytes of the `TXBUF` segment and acknowledges its index. -/
def Obligations.SentSegmentIsReassembled : Prop :=
  ∀ (s t : State) (r : Half), TransferInv s → txSendEnabled s.tx = true → exec .txSend s = .next t →
    ∀ u : State, u.rx.state = .await → u.rx.expected = s.tx.next → u.rx.cfgM = s.tx.cfgM →
      u.rx.cfgLoss.toNat ≤ r.toNat → u.rx.len.toNat + segLen s.tx s.tx.next.toNat ≤ u.params.rxCap → u.params.wf →
      ∃ f v, t.tx.out = s.tx.out ++ [f] ∧ exec (.rxFrameIn f r) u = .next v ∧
        v.rx.expected.toNat = u.rx.expected.toNat + 1 ∧
        v.rx.len.toNat = u.rx.len.toNat + segLen s.tx s.tx.next.toNat ∧
        (∀ j, j < segLen s.tx s.tx.next.toNat →
          cellRead v.rx.buf (u.rx.len.toNat + j) = cellRead s.tx.buf (segOff s.tx s.tx.next.toNat + j)) ∧
        v.rx.out = u.rx.out ++ [le16 s.tx.next ++ le16 s.tx.cfgSid] ∧
        (v.rx.state = .done ↔ s.tx.next.toNat + 1 = s.tx.nseg.toNat)

/-- The safety of a loopback transfer (R53, R63, R142, R252): while nothing but the engine itself feeds the forward path,
every step keeps `LoopInv`, so what the RX engine holds is always a prefix of the stream, whole once it is `DONE`; the
channels may lose, and where the parameters allow it reorder and duplicate. -/
def Obligations.LoopbackDeliversPrefix : Prop :=
  ∀ (stream : Frame) (m : Nat) (s t : State), s.params.wf → TxInv s.tx → LoopInv stream m s →
    (∀ x ∈ s.inputs.head?, forwardClosed x = true) → step s = .next t → LoopInv stream m t

/-- The sender never runs ahead of the receiver (R149, R168, R174): while nothing but the engine itself feeds the reverse
path, every step keeps `AckInv`. -/
def Obligations.SenderBehindReceiver : Prop :=
  ∀ s t : State, AckInv s → (∀ x ∈ s.inputs.head?, reverseClosed x = true) → step s = .next t → AckInv t

/-- A sender that is `DONE` means the stream is delivered (R142, R170): in a loopback that meets the invariants,
`TX_STATE = DONE` only with `RX_STATE = DONE` or a receive side not started, and then `RXBUF[0..RX_LEN)` is the whole
stream. -/
def Obligations.SenderDoneMeansDelivered : Prop :=
  ∀ (stream : Frame) (m : Nat) (s : State), TxInv s.tx → LoopInv stream m s → AckInv s → s.tx.state = .done →
    s.rx.state ≠ .idle → s.rx.state = .done ∧ s.rx.len.toNat = stream.length ∧
      ∀ a, a < stream.length → cellRead s.rx.buf a = stream[a]?

/-! ## Bring-up and liveness -/

/-- The bring-up (R102, R265, R266): with a legal configuration, from every state in which neither engine runs and both
queues are empty, its operations complete and leave the state a transfer of the stream starts from, and that state meets the
invariants of a loopback. -/
def Obligations.BringUpStartsTransfer : Prop :=
  (∀ (s : State) (stream : Frame) (m w sid loss rxLoss : Half) (t ackLoss : Word), s.params.wf →
    s.tx.state ≠ .active → s.rx.state ≠ .await → s.tx.out = [] → s.rx.out = [] →
    1 ≤ m.toNat → m.toNat ≤ 65529 → 1 ≤ w.toNat → 1 ≤ t.toNat →
    stream.length ≤ s.params.txCap → stream.length ≤ s.params.rxCap → streamSegments stream m.toNat ≤ 65535 →
    ∃ u, execAll (bringUp m w t sid loss ackLoss rxLoss stream) s = .next u ∧ BroughtUp stream u ∧
      u.tx.cfgM = m ∧ u.tx.cfgW = w ∧ u.tx.cfgTimeout = t ∧ u.tx.cfgSid = sid ∧ u.tx.cfgLoss = loss ∧
      u.tx.ctrl = ackLoss &&& 1 ∧ u.rx.cfgM = m ∧ u.rx.cfgLoss = rxLoss) ∧
  (∀ (s : State) (stream : Frame), BroughtUp stream s → TxInv s.tx ∧ LoopInv stream s.tx.cfgM.toNat s ∧ AckInv s)

/-- Liveness (R268, R270): in every run that meets the fairness premises 1 to 5 of R270 the RX engine reaches `DONE` with
`RXBUF[0..RX_LEN)` the stream; and the TX engine reaches `DONE` if, in addition, an ack of the final segment is delivered
with a draw that passes. That nothing from outside ends the transfer or feeds it frames is read into the premises
(log entry 22). -/
def Obligations.FairTransferCompletes : Prop :=
  ∀ (stream : Frame) (ρ : Run), FairTransfer stream ρ →
    (∃ n, (ρ.state n).rx.state = .done ∧ (ρ.state n).rx.len.toNat = stream.length ∧
      ∀ a, a < stream.length → cellRead (ρ.state n).rx.buf a = stream[a]?) ∧
    ((∃ n, ∃ sid : Half, ρ.passesToTx n
        (le16 (BitVec.ofNat 16 (streamSegments stream (ρ.state 0).tx.cfgM.toNat - 1)) ++ le16 sid)) →
      ∃ n, (ρ.state n).tx.state = .done)
end

