-- ==== Sys2Proof/Laws/Codec.lean ====
section
/-! SUPPORT. The laws of the wire fields: little-endian assembly and its inverse, and positions inside a data frame. -/

namespace Sys2Proof

@[simp] theorem le16_length (v : Half) : (le16 v).length = 2 := rfl

@[simp] theorem trailer_length (last : Bool) : (trailer last).length = 2 := by cases last <;> rfl

/-- The two bytes of a field, assembled again. -/
theorem assemble_split (v : Half) :
    ((v.setWidth 8).setWidth 16 ||| (((v >>> 8).setWidth 8).setWidth 16 <<< 8) : Half) = v := by
  ext i hi
  simp only [BitVec.getElem_or, BitVec.getElem_setWidth, BitVec.getElem_shiftLeft, BitVec.getLsbD_setWidth,
    BitVec.getLsbD_ushiftRight]
  by_cases h : i < 8
  · simp [h, BitVec.getLsbD_eq_getElem hi]
  · have h8 : 8 + (i - 8) = i := by omega
    have h9 : i - 8 < 8 := by omega
    simp [h, h8, h9, BitVec.getLsbD_eq_getElem hi]

/-- The two bytes of an assembled field. -/
theorem le16_assemble (a b : Byte) : le16 (a.setWidth 16 ||| (b.setWidth 16 <<< 8)) = [a, b] := by
  simp only [le16, List.cons.injEq, and_true]
  constructor
  · ext i hi
    simp
  · ext i hi
    have h2 : 8 + i < 16 := by omega
    simp [h2, BitVec.getLsbD_eq_getElem hi]

/-- A field read where its two bytes stand. -/
theorem u16le_append (pre post : Frame) (v : Half) : u16le (pre ++ le16 v ++ post) pre.length = v := by
  have h0 : byteAt (pre ++ le16 v ++ post) pre.length = v.setWidth 8 := by
    simp [byteAt, le16, List.getD]
  have h1 : byteAt (pre ++ le16 v ++ post) (pre.length + 1) = (v >>> 8).setWidth 8 := by
    simp [byteAt, le16, List.getD]
  rw [u16le, h0, h1, assemble_split]

/-- The trailer bytes are a field value (R68). -/
theorem trailer_eq_le16 (last : Bool) : trailer last = le16 (if last then 0xFFFF else 0x0000) := by
  cases last <;> decide

@[simp] theorem trailerLast_trailer (last : Bool) : trailerLast (if last then 0xFFFF else 0x0000) = some last := by
  cases last <;> decide

/-- The bytes a successful `ENC_DATA` gives. -/
theorem encodeData_ok (seq sid : Half) (last : Bool) {p : Frame} (h : p.length ≤ 65529) :
    encodeData seq sid last p = (.ok, le16 seq ++ le16 sid ++ p ++ trailer last) := by
  simp [encodeData, maxPayload, Nat.not_lt.2 h]

/-- A data frame decodes to its fields. -/
theorem decodeData_frame (seq sid : Half) (last : Bool) (p : Frame) :
    decodeData (le16 seq ++ le16 sid ++ p ++ trailer last) = .ok ⟨seq, sid, last, p⟩ := by
  have hlen : (le16 seq ++ le16 sid ++ p ++ trailer last).length = p.length + 6 := by
    simp; omega
  have ht : u16le (le16 seq ++ le16 sid ++ p ++ trailer last) (p.length + 4) = if last then 0xFFFF else 0x0000 := by
    have := u16le_append (le16 seq ++ le16 sid ++ p) [] (if last then 0xFFFF else 0x0000)
    rw [trailer_eq_le16]
    have hl : (le16 seq ++ le16 sid ++ p).length = p.length + 4 := by simp; omega
    rw [hl] at this
    simpa using this
  have hs : u16le (le16 seq ++ le16 sid ++ p ++ trailer last) 0 = seq := by
    have := u16le_append [] (le16 sid ++ p ++ trailer last) seq
    simpa using this
  have hi : u16le (le16 seq ++ le16 sid ++ p ++ trailer last) 2 = sid := by
    have := u16le_append (le16 seq) (p ++ trailer last) sid
    simpa using this
  have hp : (List.take p.length ((le16 seq ++ le16 sid ++ p ++ trailer last).drop 4)) = p := by
    simp [le16]
  have h6 : p.length + 6 - 2 = p.length + 4 := by omega
  simp only [decodeData, hlen, h6, ht, trailerLast_trailer, hs, hi, Nat.add_sub_cancel, hp]
  simp

/-- An ack frame decodes to its fields. -/
theorem decodeAck_frame (k sid : Half) : decodeAck (le16 k ++ le16 sid) = .ok ⟨k, sid⟩ := by
  have hs : u16le (le16 k ++ le16 sid) 0 = k := by
    have := u16le_append [] (le16 sid) k
    simpa using this
  have hi : u16le (le16 k ++ le16 sid) 2 = sid := by
    have := u16le_append (le16 k) [] sid
    simpa using this
  simp [decodeAck, hs, hi]

/-- A field at the front, from its two bytes. -/
theorem u16le_pair (a b : Byte) (rest : Frame) : u16le (a :: b :: rest) 0 = b ++ a := by
  apply BitVec.eq_of_getLsbD_eq
  intro i hi
  have e : (b ++ a : Half).getLsbD i = if i < 8 then a.getLsbD i else b.getLsbD (i - 8) :=
    (BitVec.getLsbD_append (x := b) (y := a) (i := i)).trans (by split <;> simp_all)
  rw [e]
  simp only [u16le, byteAt, List.getD]
  by_cases h : i < 8
  · simp [h]; omega
  · have h9 : i - 8 < 8 := by omega
    have : a.getLsbD i = false := BitVec.getLsbD_of_ge _ _ (by omega)
    simp [h, this, hi]

/-- A field after a prefix, from its two bytes. -/
theorem u16le_shift (pre : Frame) (a b : Byte) (rest : Frame) : u16le (pre ++ a :: b :: rest) pre.length = b ++ a := by
  rw [← u16le_pair a b rest]
  simp [u16le, byteAt, List.getD]

/-- The bytes of a field given by its two bytes. -/
theorem le16_pair (a b : Byte) : le16 (b ++ a) = [a, b] := by
  rw [← u16le_pair a b []]; exact le16_assemble a b

/-- The trailer check, byte by byte (R88). -/
theorem trailerLast_pair (a b : Byte) :
    trailerLast (b ++ a) =
      if a = 0 ∧ b = 0 then some false else if a = 0xFF ∧ b = 0xFF then some true else none := by
  have h0 : ((b ++ a : Half) = 0x0000) ↔ (a = 0 ∧ b = 0) := by
    constructor
    · intro h
      have := le16_pair a b
      rw [h] at this
      simp only [le16] at this
      simp at this
      exact ⟨this.1.symm, this.2.symm⟩
    · rintro ⟨rfl, rfl⟩; decide
  have h1 : ((b ++ a : Half) = 0xFFFF) ↔ (a = 0xFF ∧ b = 0xFF) := by
    constructor
    · intro h
      have := le16_pair a b
      rw [h] at this
      simp only [le16] at this
      simp at this
      exact ⟨this.1.symm, this.2.symm⟩
    · rintro ⟨rfl, rfl⟩; decide
  unfold trailerLast
  simp only [h0, h1]

/-- A sequence of at least six bytes has a header, a payload and a trailer. -/
theorem frame_split {b : Frame} (h : 6 ≤ b.length) : ∃ b0 b1 b2 b3 p t0 t1, b = [b0, b1, b2, b3] ++ p ++ [t0, t1] := by
  match b, h with
  | b0::b1::b2::b3::rest, h =>
    have h2 : 2 ≤ rest.length := by simp at h; omega
    refine ⟨b0,b1,b2,b3, rest.take (rest.length-2), rest[rest.length-2], rest[rest.length-1], ?_⟩
    have : rest = rest.take (rest.length-2) ++ rest.drop (rest.length-2) := (List.take_append_drop _ _).symm
    have hd : rest.drop (rest.length-2) = [rest[rest.length-2], rest[rest.length-1]] := by
      apply List.ext_getElem
      · simp; omega
      · intro i h1 h2
        simp at h1
        match i with
        | 0 => simp
        | 1 => 
          have : rest.length - 2 + 1 = rest.length - 1 := by omega
          simp [this]
    simp
    rw [← hd]; exact this
  | [], h => simp at h
  | [_], h => simp at h
  | [_,_], h => simp at h
  | [_,_,_], h => simp at h

/-- `DEC_DATA` of a sequence given by its header bytes, payload and trailer bytes. -/
theorem decodeData_split (b0 b1 b2 b3 t0 t1 : Byte) (p : Frame) :
    decodeData ([b0, b1, b2, b3] ++ p ++ [t0, t1]) = match trailerLast (t1 ++ t0) with
      | none => .error .malTrailer
      | some last => .ok ⟨b1 ++ b0, b3 ++ b2, last, p⟩ := by
  have hl : ([b0, b1, b2, b3] ++ p ++ [t0, t1]).length = p.length + 6 := by simp
  have ht : u16le ([b0, b1, b2, b3] ++ p ++ [t0, t1]) (p.length + 4) = t1 ++ t0 := by
    have := u16le_shift ([b0, b1, b2, b3] ++ p) t0 t1 []
    rw [show ([b0, b1, b2, b3] ++ p).length = p.length + 4 by simp] at this
    exact this
  have h0 : u16le ([b0, b1, b2, b3] ++ p ++ [t0, t1]) 0 = b1 ++ b0 := u16le_pair b0 b1 _
  have h2 : u16le ([b0, b1, b2, b3] ++ p ++ [t0, t1]) 2 = b3 ++ b2 := u16le_shift [b0,b1] b2 b3 (p ++ [t0, t1])
  unfold decodeData
  rw [hl, if_neg (by omega), show p.length + 6 - 2 = p.length + 4 by omega, ht, h0, h2]
  cases trailerLast (t1 ++ t0) <;> simp

/-- A sequence that decodes is the frame of its fields. -/
theorem decodeData_ok {b : Frame} {d : DataFrame} (h : decodeData b = .ok d) :
    b = le16 d.seq ++ le16 d.sid ++ d.payload ++ trailer d.last := by
  have h6 : 6 ≤ b.length := by
    unfold decodeData at h
    split at h
    · cases h
    · omega
  obtain ⟨b0, b1, b2, b3, p, t0, t1, rfl⟩ := frame_split h6
  rw [decodeData_split, trailerLast_pair] at h
  split at h
  · cases h
  · rename_i last hl
    cases h
    simp only [le16_pair]
    split at hl
    · cases hl; rename_i hh; simp [trailer, hh]
    · split at hl
      · cases hl; rename_i hh; simp [trailer, hh]
      · cases hl

/-- Four bytes. -/
theorem ack_split {b : Frame} (h : b.length = 4) : ∃ b0 b1 b2 b3, b = [b0, b1, b2, b3] := by
  match b, h with
  | [b0, b1, b2, b3], _ => exact ⟨b0, b1, b2, b3, rfl⟩

/-- `DEC_ACK` of four bytes. -/
theorem decodeAck_four (b0 b1 b2 b3 : Byte) : decodeAck [b0, b1, b2, b3] = .ok ⟨b1 ++ b0, b3 ++ b2⟩ := by
  unfold decodeAck
  rw [if_neg (by simp), u16le_pair]
  have := u16le_shift [b0,b1] b2 b3 []
  simp only [List.length_cons, List.length_nil] at this
  rw [show ([b0, b1, b2, b3] : Frame) = [b0,b1] ++ b2 :: b3 :: [] from rfl, this]

/-- A sequence that decodes is the ack frame of its fields. -/
theorem decodeAck_ok {b : Frame} {a : AckFrame} (h : decodeAck b = .ok a) : b = le16 a.ackNum ++ le16 a.sid := by
  by_cases hl : b.length = 4
  · obtain ⟨b0, b1, b2, b3, rfl⟩ := ack_split hl
    rw [decodeAck_four] at h; cases h
    simp [le16_pair]
  · simp [decodeAck, hl] at h

end Sys2Proof
end

