-- ==== Sys2Proof/Laws/Memory.lean ====
section
/-! SUPPORT. The laws of the byte spaces: read after write, the canonical form is kept, and what a range read gives. -/

namespace Sys2Proof.Machine

/-- Read after write: the written cell holds the value, every other cell is as before. -/
theorem cellRead_cellWrite (m : Memory) (a b : Nat) (v : Byte) :
    cellRead (cellWrite m a v) b = if b = a then some v else cellRead m b := by
  induction m with
  | nil => simp [cellWrite, cellRead, eq_comm]
  | cons c m ih =>
    simp only [cellWrite]
    split
    · simp only [cellRead]; grind
    · split
      · simp only [cellRead]; grind
      · simp only [cellRead, ih]; grind

/-- The addresses of a written space are those it had and the one written. -/
theorem mem_cellWrite {m : Memory} {a : Nat} {v : Byte} {c : Host.Cell} (h : c ∈ cellWrite m a v) :
    c = (a, v) ∨ c ∈ m := by
  induction m with
  | nil => simpa [cellWrite] using h
  | cons d m ih =>
    simp only [cellWrite] at h
    split at h
    · simpa using h
    · split at h
      · simp only [List.mem_cons] at h ⊢; tauto
      · simp only [List.mem_cons] at h ⊢
        rcases h with h | h
        · exact .inr (.inl h)
        · rcases ih h with h | h
          · exact .inl h
          · exact .inr (.inr h)

/-- A write keeps the canonical form. -/
theorem cellWrite_wf {m : Memory} (h : m.wf) (a : Nat) (v : Byte) : (cellWrite m a v).wf := by
  induction m with
  | nil => simp [cellWrite, Memory.wf]
  | cons c m ih =>
    have hc : ∀ d ∈ m, c.1 < d.1 := (List.pairwise_cons.1 h).1
    have hm : Memory.wf m := (List.pairwise_cons.1 h).2
    simp only [cellWrite]
    split
    · rename_i hlt
      refine List.pairwise_cons.2 ⟨fun d hd => ?_, h⟩
      rcases List.mem_cons.1 hd with rfl | hd
      · exact hlt
      · exact Nat.lt_trans hlt (hc d hd)
    · split
      · rename_i heq
        exact List.pairwise_cons.2 ⟨fun d hd => by simpa [heq] using hc d hd, hm⟩
      · refine List.pairwise_cons.2 ⟨fun d hd => ?_, ih hm⟩
        rcases mem_cellWrite hd with rfl | hd
        · show c.1 < a; omega
        · exact hc d hd

/-- Read after a range write. -/
theorem cellRead_memWrite (p : Frame) (m : Memory) (a b : Nat) :
    cellRead (memWrite m a p) b = if a ≤ b ∧ b < a + p.length then p[b - a]? else cellRead m b := by
  induction p generalizing m a with
  | nil =>
    have : ¬ (a ≤ b ∧ b < a + ([] : Frame).length) := by simp
    simp [memWrite]
  | cons v p ih =>
    simp only [memWrite, ih, cellRead_cellWrite, List.length_cons]
    by_cases h1 : a + 1 ≤ b ∧ b < a + 1 + p.length
    · have e : b - a = (b - (a + 1)) + 1 := by omega
      rw [if_pos h1, if_pos (by omega), e, List.getElem?_cons_succ]
    · by_cases h2 : b = a
      · subst h2; simp
      · rw [if_neg h1, if_neg h2, if_neg (by omega)]

/-- A range write keeps the canonical form. -/
theorem memWrite_wf (p : Frame) {m : Memory} (h : m.wf) (a : Nat) : (memWrite m a p).wf := by
  induction p generalizing m a with
  | nil => exact h
  | cons v p ih => exact ih (cellWrite_wf h a v) (a + 1)

/-- The cells of a space after a range write. -/
theorem mem_memWrite (p : Frame) {m : Memory} {a : Nat} {c : Host.Cell} (h : c ∈ memWrite m a p) :
    c ∈ m ∨ (a ≤ c.1 ∧ c.1 < a + p.length) := by
  induction p generalizing m a with
  | nil => exact .inl h
  | cons v p ih =>
    rcases ih h with h | h
    · rcases mem_cellWrite h with rfl | h
      · exact .inr (by simp)
      · exact .inl h
    · exact .inr (by simp only [List.length_cons]; omega)

/-- What a range read gives: the bytes of the range, all of them written. -/
theorem memRead_eq_some_iff (n : Nat) (m : Memory) (a : Nat) (p : Frame) :
    memRead m a n = some p ↔ p.length = n ∧ ∀ j, j < n → cellRead m (a + j) = p[j]? := by
  induction n generalizing a p with
  | zero => cases p <;> simp [memRead]
  | succ n ih =>
    constructor
    · intro h
      simp only [memRead] at h
      split at h
      · rename_i v rest hv hr
        obtain ⟨hl, hc⟩ := (ih (a + 1) rest).1 hr
        cases h
        refine ⟨by simp [hl], fun j hj => ?_⟩
        cases j with
        | zero => simpa using hv
        | succ j =>
          have := hc j (by omega)
          rw [List.getElem?_cons_succ, ← this]; congr 1; omega
      · cases h
    · rintro ⟨hl, hc⟩
      cases p with
      | nil => simp at hl
      | cons v rest =>
        have h0 : cellRead m a = some v := by simpa using hc 0 (by omega)
        have hr : memRead m (a + 1) n = some rest := by
          refine (ih (a + 1) rest).2 ⟨by simpa using hl, fun j hj => ?_⟩
          have := hc (j + 1) (by omega)
          rw [List.getElem?_cons_succ] at this
          rw [← this]; congr 1; omega
        simp [memRead, h0, hr]

/-- A range read fails exactly where a cell of the range is unwritten. -/
theorem memRead_eq_none_iff (n : Nat) (m : Memory) (a : Nat) :
    memRead m a n = none ↔ ∃ j, j < n ∧ cellRead m (a + j) = none := by
  induction n generalizing a with
  | zero => simp [memRead]
  | succ n ih =>
    constructor
    · intro h
      cases h0 : cellRead m a with
      | none => exact ⟨0, by omega, by simpa using h0⟩
      | some v =>
        have : memRead m (a + 1) n = none := by
          cases hr : memRead m (a + 1) n with
          | none => rfl
          | some rest => simp [memRead, h0, hr] at h
        obtain ⟨j, hj, hc⟩ := (ih (a + 1)).1 this
        exact ⟨j + 1, by omega, by rw [← hc]; congr 1; omega⟩
    · rintro ⟨j, hj, hc⟩
      cases j with
      | zero => simp [memRead, show cellRead m a = none by simpa using hc]
      | succ j =>
        have : memRead m (a + 1) n = none := (ih (a + 1)).2 ⟨j, by omega, by rw [← hc]; congr 1; omega⟩
        simp only [memRead, this]
        split <;> simp_all

end Sys2Proof.Machine
end

