-- ==== Sys2Proof/Laws/State.lean ====
section
/-! SUPPORT. One lemma per field per update of the state, true by definition, so that no proof unfolds an update. -/

namespace Sys2Proof.Machine

/-! ## `onTx` -/

@[simp] theorem onTx_tx (s : State) (f : TxEngine → TxEngine) : (s.onTx f).tx = f s.tx := rfl
@[simp] theorem onTx_rx (s : State) (f : TxEngine → TxEngine) : (s.onTx f).rx = s.rx := rfl
@[simp] theorem onTx_result (s : State) (f : TxEngine → TxEngine) : (s.onTx f).result = s.result := rfl
@[simp] theorem onTx_params (s : State) (f : TxEngine → TxEngine) : (s.onTx f).params = s.params := rfl
@[simp] theorem onTx_inputs (s : State) (f : TxEngine → TxEngine) : (s.onTx f).inputs = s.inputs := rfl
@[simp] theorem onTx_fresh (s : State) (f : TxEngine → TxEngine) : (s.onTx f).fresh = s.fresh := rfl

/-! ## `onRx` -/

@[simp] theorem onRx_tx (s : State) (f : RxEngine → RxEngine) : (s.onRx f).tx = s.tx := rfl
@[simp] theorem onRx_rx (s : State) (f : RxEngine → RxEngine) : (s.onRx f).rx = f s.rx := rfl
@[simp] theorem onRx_result (s : State) (f : RxEngine → RxEngine) : (s.onRx f).result = s.result := rfl
@[simp] theorem onRx_params (s : State) (f : RxEngine → RxEngine) : (s.onRx f).params = s.params := rfl
@[simp] theorem onRx_inputs (s : State) (f : RxEngine → RxEngine) : (s.onRx f).inputs = s.inputs := rfl
@[simp] theorem onRx_fresh (s : State) (f : RxEngine → RxEngine) : (s.onRx f).fresh = s.fresh := rfl

/-! ## `offered` -/

@[simp] theorem offered_tx (s : State) (x : Option Input) : (s.offered x).tx = s.tx := rfl
@[simp] theorem offered_rx (s : State) (x : Option Input) : (s.offered x).rx = s.rx := rfl
@[simp] theorem offered_result (s : State) (x : Option Input) : (s.offered x).result = s.result := rfl
@[simp] theorem offered_params (s : State) (x : Option Input) : (s.offered x).params = s.params := rfl
@[simp] theorem offered_fresh (s : State) (x : Option Input) : (s.offered x).fresh = s.fresh := rfl
@[simp] theorem offered_inputs (s : State) (x : Option Input) : (s.offered x).inputs = x.toList := rfl

/-! ## `useFresh` -/

@[simp] theorem useFresh_tx (s : State) : (s.useFresh).tx = s.tx := rfl
@[simp] theorem useFresh_rx (s : State) : (s.useFresh).rx = s.rx := rfl
@[simp] theorem useFresh_result (s : State) : (s.useFresh).result = s.result := rfl
@[simp] theorem useFresh_params (s : State) : (s.useFresh).params = s.params := rfl
@[simp] theorem useFresh_inputs (s : State) : (s.useFresh).inputs = s.inputs := rfl
@[simp] theorem useFresh_fresh (s : State) : (s.useFresh).fresh = s.fresh + 1 := rfl

/-! ## `answer` -/

@[simp] theorem answer_tx (s : State) (c : Byte) (v : PortValue) : (s.answer c v).tx = s.tx := rfl
@[simp] theorem answer_rx (s : State) (c : Byte) (v : PortValue) : (s.answer c v).rx = s.rx := rfl
@[simp] theorem answer_result (s : State) (c : Byte) (v : PortValue) : (s.answer c v).result = some ⟨c, v⟩ := rfl
@[simp] theorem answer_params (s : State) (c : Byte) (v : PortValue) : (s.answer c v).params = s.params := rfl
@[simp] theorem answer_inputs (s : State) (c : Byte) (v : PortValue) : (s.answer c v).inputs = s.inputs := rfl
@[simp] theorem answer_fresh (s : State) (c : Byte) (v : PortValue) : (s.answer c v).fresh = s.fresh := rfl

/-! ## `complete` -/

@[simp] theorem complete_tx (s : State) : (s.complete).tx = s.tx := rfl
@[simp] theorem complete_rx (s : State) : (s.complete).rx = s.rx := rfl
@[simp] theorem complete_result (s : State) : (s.complete).result = some ⟨0, .none⟩ := rfl
@[simp] theorem complete_params (s : State) : (s.complete).params = s.params := rfl
@[simp] theorem complete_inputs (s : State) : (s.complete).inputs = s.inputs := rfl
@[simp] theorem complete_fresh (s : State) : (s.complete).fresh = s.fresh := rfl

/-! ## `resetState` -/

@[simp] theorem resetState_tx (s : State) : (resetState s).tx = TxEngine.reset := rfl
@[simp] theorem resetState_rx (s : State) : (resetState s).rx = RxEngine.reset := rfl
@[simp] theorem resetState_result (s : State) : (resetState s).result = none := rfl
@[simp] theorem resetState_params (s : State) : (resetState s).params = s.params := rfl
@[simp] theorem resetState_inputs (s : State) : (resetState s).inputs = s.inputs := rfl
@[simp] theorem resetState_fresh (s : State) : (resetState s).fresh = s.fresh := rfl

/-! ## `raiseTx` -/

@[simp] theorem raiseTx_tx (s : State) (e : ErrCode) (d : Byte) : (raiseTx s e d).tx = { s.tx with err := recordError s.tx.err e d } := rfl
@[simp] theorem raiseTx_rx (s : State) (e : ErrCode) (d : Byte) : (raiseTx s e d).rx = s.rx := rfl
@[simp] theorem raiseTx_result (s : State) (e : ErrCode) (d : Byte) : (raiseTx s e d).result = s.result := rfl
@[simp] theorem raiseTx_params (s : State) (e : ErrCode) (d : Byte) : (raiseTx s e d).params = s.params := rfl
@[simp] theorem raiseTx_inputs (s : State) (e : ErrCode) (d : Byte) : (raiseTx s e d).inputs = s.inputs := rfl
@[simp] theorem raiseTx_fresh (s : State) (e : ErrCode) (d : Byte) : (raiseTx s e d).fresh = s.fresh := rfl

/-! ## `raiseRx` -/

@[simp] theorem raiseRx_tx (s : State) (e : ErrCode) (d : Byte) : (raiseRx s e d).tx = s.tx := rfl
@[simp] theorem raiseRx_rx (s : State) (e : ErrCode) (d : Byte) : (raiseRx s e d).rx = { s.rx with err := recordError s.rx.err e d } := rfl
@[simp] theorem raiseRx_result (s : State) (e : ErrCode) (d : Byte) : (raiseRx s e d).result = s.result := rfl
@[simp] theorem raiseRx_params (s : State) (e : ErrCode) (d : Byte) : (raiseRx s e d).params = s.params := rfl
@[simp] theorem raiseRx_inputs (s : State) (e : ErrCode) (d : Byte) : (raiseRx s e d).inputs = s.inputs := rfl
@[simp] theorem raiseRx_fresh (s : State) (e : ErrCode) (d : Byte) : (raiseRx s e d).fresh = s.fresh := rfl

/-! ## `clearTxErr` -/

@[simp] theorem clearTxErr_tx (s : State) : (clearTxErr s).tx = { s.tx with err := 0 } := rfl
@[simp] theorem clearTxErr_rx (s : State) : (clearTxErr s).rx = s.rx := rfl
@[simp] theorem clearTxErr_result (s : State) : (clearTxErr s).result = s.result := rfl
@[simp] theorem clearTxErr_params (s : State) : (clearTxErr s).params = s.params := rfl
@[simp] theorem clearTxErr_inputs (s : State) : (clearTxErr s).inputs = s.inputs := rfl
@[simp] theorem clearTxErr_fresh (s : State) : (clearTxErr s).fresh = s.fresh := rfl

/-! ## `clearRxErr` -/

@[simp] theorem clearRxErr_tx (s : State) : (clearRxErr s).tx = s.tx := rfl
@[simp] theorem clearRxErr_rx (s : State) : (clearRxErr s).rx = { s.rx with err := 0 } := rfl
@[simp] theorem clearRxErr_result (s : State) : (clearRxErr s).result = s.result := rfl
@[simp] theorem clearRxErr_params (s : State) : (clearRxErr s).params = s.params := rfl
@[simp] theorem clearRxErr_inputs (s : State) : (clearRxErr s).inputs = s.inputs := rfl
@[simp] theorem clearRxErr_fresh (s : State) : (clearRxErr s).fresh = s.fresh := rfl

/-! ## `answerAnyByte` -/

/-- Everything an open read does: some byte on the port, noted with its address. -/
theorem answerAnyByte_answers (addr : Word) (s : State) : ∃ (byte : Byte) (n : Nat),
    answerAnyByte addr s = { s with result := some ⟨0, .anyData addr byte⟩, fresh := n } := by
  unfold answerAnyByte
  split
  · exact ⟨_, s.fresh, rfl⟩
  · exact ⟨_, s.fresh + 1, rfl⟩

@[simp] theorem answerAnyByte_tx (addr : Word) (s : State) : (answerAnyByte addr s).tx = s.tx := by
  obtain ⟨_, _, h⟩ := answerAnyByte_answers addr s
  rw [h]
@[simp] theorem answerAnyByte_rx (addr : Word) (s : State) : (answerAnyByte addr s).rx = s.rx := by
  obtain ⟨_, _, h⟩ := answerAnyByte_answers addr s
  rw [h]
@[simp] theorem answerAnyByte_params (addr : Word) (s : State) : (answerAnyByte addr s).params = s.params := by
  obtain ⟨_, _, h⟩ := answerAnyByte_answers addr s
  rw [h]
@[simp] theorem answerAnyByte_inputs (addr : Word) (s : State) : (answerAnyByte addr s).inputs = s.inputs := by
  obtain ⟨_, _, h⟩ := answerAnyByte_answers addr s
  rw [h]

/-- A read just answered, asked again: nothing changes (R71). -/
theorem answerAnyByte_again {addr : Word} {byte : Byte} {s : State} (h : s.result = some ⟨0, .anyData addr byte⟩) :
    answerAnyByte addr s = s := by
  have held : heldByte s addr = some byte := by simp [heldByte, h]
  simp only [answerAnyByte, held, State.answer]
  rw [← h]

/-! ## `timerStart` -/

@[simp] theorem timerStart_state (x : TxEngine) : (timerStart x).state = x.state := rfl
@[simp] theorem timerStart_base (x : TxEngine) : (timerStart x).base = x.base := rfl
@[simp] theorem timerStart_next (x : TxEngine) : (timerStart x).next = x.next := rfl
@[simp] theorem timerStart_nseg (x : TxEngine) : (timerStart x).nseg = x.nseg := rfl
@[simp] theorem timerStart_len (x : TxEngine) : (timerStart x).len = x.len := rfl
@[simp] theorem timerStart_tmrRun (x : TxEngine) : (timerStart x).tmrRun = true := rfl
@[simp] theorem timerStart_tmrCount (x : TxEngine) : (timerStart x).tmrCount = x.cfgTimeout := rfl
@[simp] theorem timerStart_time (x : TxEngine) : (timerStart x).time = x.time := rfl
@[simp] theorem timerStart_sent (x : TxEngine) : (timerStart x).sent = x.sent := rfl
@[simp] theorem timerStart_retx (x : TxEngine) : (timerStart x).retx = x.retx := rfl
@[simp] theorem timerStart_tStart (x : TxEngine) : (timerStart x).tStart = x.tStart := rfl
@[simp] theorem timerStart_tEnd (x : TxEngine) : (timerStart x).tEnd = x.tEnd := rfl
@[simp] theorem timerStart_err (x : TxEngine) : (timerStart x).err = x.err := rfl
@[simp] theorem timerStart_ctrl (x : TxEngine) : (timerStart x).ctrl = x.ctrl := rfl
@[simp] theorem timerStart_cfgM (x : TxEngine) : (timerStart x).cfgM = x.cfgM := rfl
@[simp] theorem timerStart_cfgW (x : TxEngine) : (timerStart x).cfgW = x.cfgW := rfl
@[simp] theorem timerStart_cfgTimeout (x : TxEngine) : (timerStart x).cfgTimeout = x.cfgTimeout := rfl
@[simp] theorem timerStart_cfgSid (x : TxEngine) : (timerStart x).cfgSid = x.cfgSid := rfl
@[simp] theorem timerStart_cfgLoss (x : TxEngine) : (timerStart x).cfgLoss = x.cfgLoss := rfl
@[simp] theorem timerStart_buf (x : TxEngine) : (timerStart x).buf = x.buf := rfl
@[simp] theorem timerStart_out (x : TxEngine) : (timerStart x).out = x.out := rfl

/-! ## `timerRestart` -/

@[simp] theorem timerRestart_state (x : TxEngine) : (timerRestart x).state = x.state := rfl
@[simp] theorem timerRestart_base (x : TxEngine) : (timerRestart x).base = x.base := rfl
@[simp] theorem timerRestart_next (x : TxEngine) : (timerRestart x).next = x.next := rfl
@[simp] theorem timerRestart_nseg (x : TxEngine) : (timerRestart x).nseg = x.nseg := rfl
@[simp] theorem timerRestart_len (x : TxEngine) : (timerRestart x).len = x.len := rfl
@[simp] theorem timerRestart_tmrRun (x : TxEngine) : (timerRestart x).tmrRun = true := rfl
@[simp] theorem timerRestart_tmrCount (x : TxEngine) : (timerRestart x).tmrCount = x.cfgTimeout := rfl
@[simp] theorem timerRestart_time (x : TxEngine) : (timerRestart x).time = x.time := rfl
@[simp] theorem timerRestart_sent (x : TxEngine) : (timerRestart x).sent = x.sent := rfl
@[simp] theorem timerRestart_retx (x : TxEngine) : (timerRestart x).retx = x.retx := rfl
@[simp] theorem timerRestart_tStart (x : TxEngine) : (timerRestart x).tStart = x.tStart := rfl
@[simp] theorem timerRestart_tEnd (x : TxEngine) : (timerRestart x).tEnd = x.tEnd := rfl
@[simp] theorem timerRestart_err (x : TxEngine) : (timerRestart x).err = x.err := rfl
@[simp] theorem timerRestart_ctrl (x : TxEngine) : (timerRestart x).ctrl = x.ctrl := rfl
@[simp] theorem timerRestart_cfgM (x : TxEngine) : (timerRestart x).cfgM = x.cfgM := rfl
@[simp] theorem timerRestart_cfgW (x : TxEngine) : (timerRestart x).cfgW = x.cfgW := rfl
@[simp] theorem timerRestart_cfgTimeout (x : TxEngine) : (timerRestart x).cfgTimeout = x.cfgTimeout := rfl
@[simp] theorem timerRestart_cfgSid (x : TxEngine) : (timerRestart x).cfgSid = x.cfgSid := rfl
@[simp] theorem timerRestart_cfgLoss (x : TxEngine) : (timerRestart x).cfgLoss = x.cfgLoss := rfl
@[simp] theorem timerRestart_buf (x : TxEngine) : (timerRestart x).buf = x.buf := rfl
@[simp] theorem timerRestart_out (x : TxEngine) : (timerRestart x).out = x.out := rfl

/-! ## `timerStop` -/

@[simp] theorem timerStop_state (x : TxEngine) : (timerStop x).state = x.state := rfl
@[simp] theorem timerStop_base (x : TxEngine) : (timerStop x).base = x.base := rfl
@[simp] theorem timerStop_next (x : TxEngine) : (timerStop x).next = x.next := rfl
@[simp] theorem timerStop_nseg (x : TxEngine) : (timerStop x).nseg = x.nseg := rfl
@[simp] theorem timerStop_len (x : TxEngine) : (timerStop x).len = x.len := rfl
@[simp] theorem timerStop_tmrRun (x : TxEngine) : (timerStop x).tmrRun = false := rfl
@[simp] theorem timerStop_tmrCount (x : TxEngine) : (timerStop x).tmrCount = 0 := rfl
@[simp] theorem timerStop_time (x : TxEngine) : (timerStop x).time = x.time := rfl
@[simp] theorem timerStop_sent (x : TxEngine) : (timerStop x).sent = x.sent := rfl
@[simp] theorem timerStop_retx (x : TxEngine) : (timerStop x).retx = x.retx := rfl
@[simp] theorem timerStop_tStart (x : TxEngine) : (timerStop x).tStart = x.tStart := rfl
@[simp] theorem timerStop_tEnd (x : TxEngine) : (timerStop x).tEnd = x.tEnd := rfl
@[simp] theorem timerStop_err (x : TxEngine) : (timerStop x).err = x.err := rfl
@[simp] theorem timerStop_ctrl (x : TxEngine) : (timerStop x).ctrl = x.ctrl := rfl
@[simp] theorem timerStop_cfgM (x : TxEngine) : (timerStop x).cfgM = x.cfgM := rfl
@[simp] theorem timerStop_cfgW (x : TxEngine) : (timerStop x).cfgW = x.cfgW := rfl
@[simp] theorem timerStop_cfgTimeout (x : TxEngine) : (timerStop x).cfgTimeout = x.cfgTimeout := rfl
@[simp] theorem timerStop_cfgSid (x : TxEngine) : (timerStop x).cfgSid = x.cfgSid := rfl
@[simp] theorem timerStop_cfgLoss (x : TxEngine) : (timerStop x).cfgLoss = x.cfgLoss := rfl
@[simp] theorem timerStop_buf (x : TxEngine) : (timerStop x).buf = x.buf := rfl
@[simp] theorem timerStop_out (x : TxEngine) : (timerStop x).out = x.out := rfl

/-! ## `emitTx` -/

@[simp] theorem emitTx_state (x : TxEngine) (fs : List Frame) : (emitTx x fs).state = x.state := rfl
@[simp] theorem emitTx_base (x : TxEngine) (fs : List Frame) : (emitTx x fs).base = x.base := rfl
@[simp] theorem emitTx_next (x : TxEngine) (fs : List Frame) : (emitTx x fs).next = x.next := rfl
@[simp] theorem emitTx_nseg (x : TxEngine) (fs : List Frame) : (emitTx x fs).nseg = x.nseg := rfl
@[simp] theorem emitTx_len (x : TxEngine) (fs : List Frame) : (emitTx x fs).len = x.len := rfl
@[simp] theorem emitTx_tmrRun (x : TxEngine) (fs : List Frame) : (emitTx x fs).tmrRun = x.tmrRun := rfl
@[simp] theorem emitTx_tmrCount (x : TxEngine) (fs : List Frame) : (emitTx x fs).tmrCount = x.tmrCount := rfl
@[simp] theorem emitTx_time (x : TxEngine) (fs : List Frame) : (emitTx x fs).time = x.time := rfl
@[simp] theorem emitTx_sent (x : TxEngine) (fs : List Frame) : (emitTx x fs).sent = x.sent := rfl
@[simp] theorem emitTx_retx (x : TxEngine) (fs : List Frame) : (emitTx x fs).retx = x.retx := rfl
@[simp] theorem emitTx_tStart (x : TxEngine) (fs : List Frame) : (emitTx x fs).tStart = x.tStart := rfl
@[simp] theorem emitTx_tEnd (x : TxEngine) (fs : List Frame) : (emitTx x fs).tEnd = x.tEnd := rfl
@[simp] theorem emitTx_err (x : TxEngine) (fs : List Frame) : (emitTx x fs).err = x.err := rfl
@[simp] theorem emitTx_ctrl (x : TxEngine) (fs : List Frame) : (emitTx x fs).ctrl = x.ctrl := rfl
@[simp] theorem emitTx_cfgM (x : TxEngine) (fs : List Frame) : (emitTx x fs).cfgM = x.cfgM := rfl
@[simp] theorem emitTx_cfgW (x : TxEngine) (fs : List Frame) : (emitTx x fs).cfgW = x.cfgW := rfl
@[simp] theorem emitTx_cfgTimeout (x : TxEngine) (fs : List Frame) : (emitTx x fs).cfgTimeout = x.cfgTimeout := rfl
@[simp] theorem emitTx_cfgSid (x : TxEngine) (fs : List Frame) : (emitTx x fs).cfgSid = x.cfgSid := rfl
@[simp] theorem emitTx_cfgLoss (x : TxEngine) (fs : List Frame) : (emitTx x fs).cfgLoss = x.cfgLoss := rfl
@[simp] theorem emitTx_buf (x : TxEngine) (fs : List Frame) : (emitTx x fs).buf = x.buf := rfl
@[simp] theorem emitTx_out (x : TxEngine) (fs : List Frame) : (emitTx x fs).out = x.out ++ fs := rfl

/-! ## `emitRx` -/

@[simp] theorem emitRx_state (x : RxEngine) (f : Frame) : (emitRx x f).state = x.state := rfl
@[simp] theorem emitRx_expected (x : RxEngine) (f : Frame) : (emitRx x f).expected = x.expected := rfl
@[simp] theorem emitRx_len (x : RxEngine) (f : Frame) : (emitRx x f).len = x.len := rfl
@[simp] theorem emitRx_accepted (x : RxEngine) (f : Frame) : (emitRx x f).accepted = x.accepted := rfl
@[simp] theorem emitRx_err (x : RxEngine) (f : Frame) : (emitRx x f).err = x.err := rfl
@[simp] theorem emitRx_cfgM (x : RxEngine) (f : Frame) : (emitRx x f).cfgM = x.cfgM := rfl
@[simp] theorem emitRx_cfgLoss (x : RxEngine) (f : Frame) : (emitRx x f).cfgLoss = x.cfgLoss := rfl
@[simp] theorem emitRx_buf (x : RxEngine) (f : Frame) : (emitRx x f).buf = x.buf := rfl
@[simp] theorem emitRx_out (x : RxEngine) (f : Frame) : (emitRx x f).out = x.out ++ [f] := rfl

/-! ## `beginTransfer` -/

@[simp] theorem beginTransfer_state (x : TxEngine) : (beginTransfer x).state = .active := rfl
@[simp] theorem beginTransfer_base (x : TxEngine) : (beginTransfer x).base = 0 := rfl
@[simp] theorem beginTransfer_next (x : TxEngine) : (beginTransfer x).next = 0 := rfl
@[simp] theorem beginTransfer_nseg (x : TxEngine) : (beginTransfer x).nseg = BitVec.ofNat 16 (max 1 (ceilDiv x.len.toNat x.cfgM.toNat)) := rfl
@[simp] theorem beginTransfer_len (x : TxEngine) : (beginTransfer x).len = x.len := rfl
@[simp] theorem beginTransfer_tmrRun (x : TxEngine) : (beginTransfer x).tmrRun = false := rfl
@[simp] theorem beginTransfer_tmrCount (x : TxEngine) : (beginTransfer x).tmrCount = 0 := rfl
@[simp] theorem beginTransfer_time (x : TxEngine) : (beginTransfer x).time = x.time := rfl
@[simp] theorem beginTransfer_sent (x : TxEngine) : (beginTransfer x).sent = 0 := rfl
@[simp] theorem beginTransfer_retx (x : TxEngine) : (beginTransfer x).retx = 0 := rfl
@[simp] theorem beginTransfer_tStart (x : TxEngine) : (beginTransfer x).tStart = x.time := rfl
@[simp] theorem beginTransfer_tEnd (x : TxEngine) : (beginTransfer x).tEnd = 0 := rfl
@[simp] theorem beginTransfer_err (x : TxEngine) : (beginTransfer x).err = x.err := rfl
@[simp] theorem beginTransfer_ctrl (x : TxEngine) : (beginTransfer x).ctrl = x.ctrl := rfl
@[simp] theorem beginTransfer_cfgM (x : TxEngine) : (beginTransfer x).cfgM = x.cfgM := rfl
@[simp] theorem beginTransfer_cfgW (x : TxEngine) : (beginTransfer x).cfgW = x.cfgW := rfl
@[simp] theorem beginTransfer_cfgTimeout (x : TxEngine) : (beginTransfer x).cfgTimeout = x.cfgTimeout := rfl
@[simp] theorem beginTransfer_cfgSid (x : TxEngine) : (beginTransfer x).cfgSid = x.cfgSid := rfl
@[simp] theorem beginTransfer_cfgLoss (x : TxEngine) : (beginTransfer x).cfgLoss = x.cfgLoss := rfl
@[simp] theorem beginTransfer_buf (x : TxEngine) : (beginTransfer x).buf = x.buf := rfl
@[simp] theorem beginTransfer_out (x : TxEngine) : (beginTransfer x).out = x.out := rfl

/-! ## `retransmit` -/

@[simp] theorem retransmit_state (x : TxEngine) (fs : List Frame) : (retransmit x fs).state = x.state := rfl
@[simp] theorem retransmit_base (x : TxEngine) (fs : List Frame) : (retransmit x fs).base = x.base := rfl
@[simp] theorem retransmit_next (x : TxEngine) (fs : List Frame) : (retransmit x fs).next = x.next := rfl
@[simp] theorem retransmit_nseg (x : TxEngine) (fs : List Frame) : (retransmit x fs).nseg = x.nseg := rfl
@[simp] theorem retransmit_len (x : TxEngine) (fs : List Frame) : (retransmit x fs).len = x.len := rfl
@[simp] theorem retransmit_tmrRun (x : TxEngine) (fs : List Frame) : (retransmit x fs).tmrRun = true := rfl
@[simp] theorem retransmit_tmrCount (x : TxEngine) (fs : List Frame) : (retransmit x fs).tmrCount = x.cfgTimeout := rfl
@[simp] theorem retransmit_time (x : TxEngine) (fs : List Frame) : (retransmit x fs).time = x.time := rfl
@[simp] theorem retransmit_sent (x : TxEngine) (fs : List Frame) : (retransmit x fs).sent = x.sent + BitVec.ofNat 32 (inFlight x) := rfl
@[simp] theorem retransmit_retx (x : TxEngine) (fs : List Frame) : (retransmit x fs).retx = x.retx + BitVec.ofNat 32 (inFlight x) := rfl
@[simp] theorem retransmit_tStart (x : TxEngine) (fs : List Frame) : (retransmit x fs).tStart = x.tStart := rfl
@[simp] theorem retransmit_tEnd (x : TxEngine) (fs : List Frame) : (retransmit x fs).tEnd = x.tEnd := rfl
@[simp] theorem retransmit_err (x : TxEngine) (fs : List Frame) : (retransmit x fs).err = x.err := rfl
@[simp] theorem retransmit_ctrl (x : TxEngine) (fs : List Frame) : (retransmit x fs).ctrl = x.ctrl := rfl
@[simp] theorem retransmit_cfgM (x : TxEngine) (fs : List Frame) : (retransmit x fs).cfgM = x.cfgM := rfl
@[simp] theorem retransmit_cfgW (x : TxEngine) (fs : List Frame) : (retransmit x fs).cfgW = x.cfgW := rfl
@[simp] theorem retransmit_cfgTimeout (x : TxEngine) (fs : List Frame) : (retransmit x fs).cfgTimeout = x.cfgTimeout := rfl
@[simp] theorem retransmit_cfgSid (x : TxEngine) (fs : List Frame) : (retransmit x fs).cfgSid = x.cfgSid := rfl
@[simp] theorem retransmit_cfgLoss (x : TxEngine) (fs : List Frame) : (retransmit x fs).cfgLoss = x.cfgLoss := rfl
@[simp] theorem retransmit_buf (x : TxEngine) (fs : List Frame) : (retransmit x fs).buf = x.buf := rfl
@[simp] theorem retransmit_out (x : TxEngine) (fs : List Frame) : (retransmit x fs).out = x.out ++ fs := rfl

/-! ## `beginReceive` -/

@[simp] theorem beginReceive_state (x : RxEngine) : (beginReceive x).state = .await := rfl
@[simp] theorem beginReceive_expected (x : RxEngine) : (beginReceive x).expected = 0 := rfl
@[simp] theorem beginReceive_len (x : RxEngine) : (beginReceive x).len = 0 := rfl
@[simp] theorem beginReceive_accepted (x : RxEngine) : (beginReceive x).accepted = 0 := rfl
@[simp] theorem beginReceive_err (x : RxEngine) : (beginReceive x).err = x.err := rfl
@[simp] theorem beginReceive_cfgM (x : RxEngine) : (beginReceive x).cfgM = x.cfgM := rfl
@[simp] theorem beginReceive_cfgLoss (x : RxEngine) : (beginReceive x).cfgLoss = x.cfgLoss := rfl
@[simp] theorem beginReceive_buf (x : RxEngine) : (beginReceive x).buf = x.buf := rfl
@[simp] theorem beginReceive_out (x : RxEngine) : (beginReceive x).out = x.out := rfl

/-! ## `acceptFrame` -/

@[simp] theorem acceptFrame_state (x : RxEngine) (d : DataFrame) : (acceptFrame x d).state = (if d.last then .done else x.state) := rfl
@[simp] theorem acceptFrame_expected (x : RxEngine) (d : DataFrame) : (acceptFrame x d).expected = x.expected + 1 := rfl
@[simp] theorem acceptFrame_len (x : RxEngine) (d : DataFrame) : (acceptFrame x d).len = x.len + BitVec.ofNat 32 d.payload.length := rfl
@[simp] theorem acceptFrame_accepted (x : RxEngine) (d : DataFrame) : (acceptFrame x d).accepted = x.accepted + 1 := rfl
@[simp] theorem acceptFrame_err (x : RxEngine) (d : DataFrame) : (acceptFrame x d).err = x.err := rfl
@[simp] theorem acceptFrame_cfgM (x : RxEngine) (d : DataFrame) : (acceptFrame x d).cfgM = x.cfgM := rfl
@[simp] theorem acceptFrame_cfgLoss (x : RxEngine) (d : DataFrame) : (acceptFrame x d).cfgLoss = x.cfgLoss := rfl
@[simp] theorem acceptFrame_buf (x : RxEngine) (d : DataFrame) : (acceptFrame x d).buf = memWrite x.buf x.len.toNat d.payload := rfl
@[simp] theorem acceptFrame_out (x : RxEngine) (d : DataFrame) : (acceptFrame x d).out = x.out ++ [encodeAck x.expected d.sid] := rfl

/-! ## `sendNext` -/

@[simp] theorem sendNext_state (x : TxEngine) (f : Frame) : (sendNext x f).state = x.state := by
  simp only [sendNext]
  (repeat' split) <;> rfl
@[simp] theorem sendNext_base (x : TxEngine) (f : Frame) : (sendNext x f).base = x.base := by
  simp only [sendNext]
  (repeat' split) <;> rfl
@[simp] theorem sendNext_next (x : TxEngine) (f : Frame) : (sendNext x f).next = x.next + 1 := rfl
@[simp] theorem sendNext_nseg (x : TxEngine) (f : Frame) : (sendNext x f).nseg = x.nseg := by
  simp only [sendNext]
  (repeat' split) <;> rfl
@[simp] theorem sendNext_len (x : TxEngine) (f : Frame) : (sendNext x f).len = x.len := by
  simp only [sendNext]
  (repeat' split) <;> rfl
@[simp] theorem sendNext_tmrRun (x : TxEngine) (f : Frame) : (sendNext x f).tmrRun = (decide (x.base = x.next) || x.tmrRun) := by
  simp only [sendNext]
  (repeat' split) <;> simp_all
@[simp] theorem sendNext_tmrCount (x : TxEngine) (f : Frame) : (sendNext x f).tmrCount = (if x.base = x.next then x.cfgTimeout else x.tmrCount) := by
  simp only [sendNext]
  (repeat' split) <;> simp_all
@[simp] theorem sendNext_time (x : TxEngine) (f : Frame) : (sendNext x f).time = x.time := by
  simp only [sendNext]
  (repeat' split) <;> rfl
@[simp] theorem sendNext_sent (x : TxEngine) (f : Frame) : (sendNext x f).sent = x.sent + 1 := rfl
@[simp] theorem sendNext_retx (x : TxEngine) (f : Frame) : (sendNext x f).retx = x.retx := by
  simp only [sendNext]
  (repeat' split) <;> rfl
@[simp] theorem sendNext_tStart (x : TxEngine) (f : Frame) : (sendNext x f).tStart = x.tStart := by
  simp only [sendNext]
  (repeat' split) <;> rfl
@[simp] theorem sendNext_tEnd (x : TxEngine) (f : Frame) : (sendNext x f).tEnd = x.tEnd := by
  simp only [sendNext]
  (repeat' split) <;> rfl
@[simp] theorem sendNext_err (x : TxEngine) (f : Frame) : (sendNext x f).err = x.err := by
  simp only [sendNext]
  (repeat' split) <;> rfl
@[simp] theorem sendNext_ctrl (x : TxEngine) (f : Frame) : (sendNext x f).ctrl = x.ctrl := by
  simp only [sendNext]
  (repeat' split) <;> rfl
@[simp] theorem sendNext_cfgM (x : TxEngine) (f : Frame) : (sendNext x f).cfgM = x.cfgM := by
  simp only [sendNext]
  (repeat' split) <;> rfl
@[simp] theorem sendNext_cfgW (x : TxEngine) (f : Frame) : (sendNext x f).cfgW = x.cfgW := by
  simp only [sendNext]
  (repeat' split) <;> rfl
@[simp] theorem sendNext_cfgTimeout (x : TxEngine) (f : Frame) : (sendNext x f).cfgTimeout = x.cfgTimeout := by
  simp only [sendNext]
  (repeat' split) <;> rfl
@[simp] theorem sendNext_cfgSid (x : TxEngine) (f : Frame) : (sendNext x f).cfgSid = x.cfgSid := by
  simp only [sendNext]
  (repeat' split) <;> rfl
@[simp] theorem sendNext_cfgLoss (x : TxEngine) (f : Frame) : (sendNext x f).cfgLoss = x.cfgLoss := by
  simp only [sendNext]
  (repeat' split) <;> rfl
@[simp] theorem sendNext_buf (x : TxEngine) (f : Frame) : (sendNext x f).buf = x.buf := by
  simp only [sendNext]
  (repeat' split) <;> rfl
@[simp] theorem sendNext_out (x : TxEngine) (f : Frame) : (sendNext x f).out = x.out ++ [f] := by
  simp only [sendNext]
  (repeat' split) <;> simp_all

/-! ## `advanceWindow` -/

@[simp] theorem advanceWindow_state (x : TxEngine) (k : Half) : (advanceWindow x k).state = (if k + 1 = x.nseg then .done else x.state) := by
  simp only [advanceWindow]
  (repeat' split) <;> simp_all
@[simp] theorem advanceWindow_base (x : TxEngine) (k : Half) : (advanceWindow x k).base = k + 1 := by
  simp only [advanceWindow]
  (repeat' split) <;> simp_all
@[simp] theorem advanceWindow_next (x : TxEngine) (k : Half) : (advanceWindow x k).next = x.next := by
  simp only [advanceWindow]
  (repeat' split) <;> rfl
@[simp] theorem advanceWindow_nseg (x : TxEngine) (k : Half) : (advanceWindow x k).nseg = x.nseg := by
  simp only [advanceWindow]
  (repeat' split) <;> rfl
@[simp] theorem advanceWindow_len (x : TxEngine) (k : Half) : (advanceWindow x k).len = x.len := by
  simp only [advanceWindow]
  (repeat' split) <;> rfl
@[simp] theorem advanceWindow_tmrRun (x : TxEngine) (k : Half) : (advanceWindow x k).tmrRun = decide (k + 1 ≠ x.next) := by
  simp only [advanceWindow]
  (repeat' split) <;> simp_all
@[simp] theorem advanceWindow_tmrCount (x : TxEngine) (k : Half) : (advanceWindow x k).tmrCount = (if k + 1 = x.next then 0 else x.cfgTimeout) := by
  simp only [advanceWindow]
  (repeat' split) <;> simp_all
@[simp] theorem advanceWindow_time (x : TxEngine) (k : Half) : (advanceWindow x k).time = x.time := by
  simp only [advanceWindow]
  (repeat' split) <;> rfl
@[simp] theorem advanceWindow_sent (x : TxEngine) (k : Half) : (advanceWindow x k).sent = x.sent := by
  simp only [advanceWindow]
  (repeat' split) <;> rfl
@[simp] theorem advanceWindow_retx (x : TxEngine) (k : Half) : (advanceWindow x k).retx = x.retx := by
  simp only [advanceWindow]
  (repeat' split) <;> rfl
@[simp] theorem advanceWindow_tStart (x : TxEngine) (k : Half) : (advanceWindow x k).tStart = x.tStart := by
  simp only [advanceWindow]
  (repeat' split) <;> rfl
@[simp] theorem advanceWindow_tEnd (x : TxEngine) (k : Half) : (advanceWindow x k).tEnd = (if k + 1 = x.nseg then x.time else x.tEnd) := by
  simp only [advanceWindow]
  (repeat' split) <;> simp_all
@[simp] theorem advanceWindow_err (x : TxEngine) (k : Half) : (advanceWindow x k).err = x.err := by
  simp only [advanceWindow]
  (repeat' split) <;> rfl
@[simp] theorem advanceWindow_ctrl (x : TxEngine) (k : Half) : (advanceWindow x k).ctrl = x.ctrl := by
  simp only [advanceWindow]
  (repeat' split) <;> rfl
@[simp] theorem advanceWindow_cfgM (x : TxEngine) (k : Half) : (advanceWindow x k).cfgM = x.cfgM := by
  simp only [advanceWindow]
  (repeat' split) <;> rfl
@[simp] theorem advanceWindow_cfgW (x : TxEngine) (k : Half) : (advanceWindow x k).cfgW = x.cfgW := by
  simp only [advanceWindow]
  (repeat' split) <;> rfl
@[simp] theorem advanceWindow_cfgTimeout (x : TxEngine) (k : Half) : (advanceWindow x k).cfgTimeout = x.cfgTimeout := by
  simp only [advanceWindow]
  (repeat' split) <;> rfl
@[simp] theorem advanceWindow_cfgSid (x : TxEngine) (k : Half) : (advanceWindow x k).cfgSid = x.cfgSid := by
  simp only [advanceWindow]
  (repeat' split) <;> rfl
@[simp] theorem advanceWindow_cfgLoss (x : TxEngine) (k : Half) : (advanceWindow x k).cfgLoss = x.cfgLoss := by
  simp only [advanceWindow]
  (repeat' split) <;> rfl
@[simp] theorem advanceWindow_buf (x : TxEngine) (k : Half) : (advanceWindow x k).buf = x.buf := by
  simp only [advanceWindow]
  (repeat' split) <;> rfl
@[simp] theorem advanceWindow_out (x : TxEngine) (k : Half) : (advanceWindow x k).out = x.out := by
  simp only [advanceWindow]
  (repeat' split) <;> rfl

/-! ## `tick` -/

@[simp] theorem tick_state (x : TxEngine) : (tick x).state = x.state := by
  simp only [tick]
  (repeat' split) <;> rfl
@[simp] theorem tick_base (x : TxEngine) : (tick x).base = x.base := by
  simp only [tick]
  (repeat' split) <;> rfl
@[simp] theorem tick_next (x : TxEngine) : (tick x).next = x.next := by
  simp only [tick]
  (repeat' split) <;> rfl
@[simp] theorem tick_nseg (x : TxEngine) : (tick x).nseg = x.nseg := by
  simp only [tick]
  (repeat' split) <;> rfl
@[simp] theorem tick_len (x : TxEngine) : (tick x).len = x.len := by
  simp only [tick]
  (repeat' split) <;> rfl
@[simp] theorem tick_tmrRun (x : TxEngine) : (tick x).tmrRun = x.tmrRun := by
  simp only [tick]
  (repeat' split) <;> rfl
@[simp] theorem tick_tmrCount (x : TxEngine) : (tick x).tmrCount = (if x.tmrRun && decide (x.tmrCount ≠ 0) then x.tmrCount - 1 else x.tmrCount) := by
  simp only [tick]
  (repeat' split) <;> simp_all
@[simp] theorem tick_time (x : TxEngine) : (tick x).time = x.time + 1 := by
  simp only [tick]
  (repeat' split) <;> simp_all
@[simp] theorem tick_sent (x : TxEngine) : (tick x).sent = x.sent := by
  simp only [tick]
  (repeat' split) <;> rfl
@[simp] theorem tick_retx (x : TxEngine) : (tick x).retx = x.retx := by
  simp only [tick]
  (repeat' split) <;> rfl
@[simp] theorem tick_tStart (x : TxEngine) : (tick x).tStart = x.tStart := by
  simp only [tick]
  (repeat' split) <;> rfl
@[simp] theorem tick_tEnd (x : TxEngine) : (tick x).tEnd = x.tEnd := by
  simp only [tick]
  (repeat' split) <;> rfl
@[simp] theorem tick_err (x : TxEngine) : (tick x).err = x.err := by
  simp only [tick]
  (repeat' split) <;> rfl
@[simp] theorem tick_ctrl (x : TxEngine) : (tick x).ctrl = x.ctrl := by
  simp only [tick]
  (repeat' split) <;> rfl
@[simp] theorem tick_cfgM (x : TxEngine) : (tick x).cfgM = x.cfgM := by
  simp only [tick]
  (repeat' split) <;> rfl
@[simp] theorem tick_cfgW (x : TxEngine) : (tick x).cfgW = x.cfgW := by
  simp only [tick]
  (repeat' split) <;> rfl
@[simp] theorem tick_cfgTimeout (x : TxEngine) : (tick x).cfgTimeout = x.cfgTimeout := by
  simp only [tick]
  (repeat' split) <;> rfl
@[simp] theorem tick_cfgSid (x : TxEngine) : (tick x).cfgSid = x.cfgSid := by
  simp only [tick]
  (repeat' split) <;> rfl
@[simp] theorem tick_cfgLoss (x : TxEngine) : (tick x).cfgLoss = x.cfgLoss := by
  simp only [tick]
  (repeat' split) <;> rfl
@[simp] theorem tick_buf (x : TxEngine) : (tick x).buf = x.buf := by
  simp only [tick]
  (repeat' split) <;> rfl
@[simp] theorem tick_out (x : TxEngine) : (tick x).out = x.out := by
  simp only [tick]
  (repeat' split) <;> rfl

/-! ## `mismatchFrame` -/

@[simp] theorem mismatchFrame_state (x : RxEngine) (d : DataFrame) : (mismatchFrame x d).state = x.state := by
  simp only [mismatchFrame]
  (repeat' split) <;> rfl
@[simp] theorem mismatchFrame_expected (x : RxEngine) (d : DataFrame) : (mismatchFrame x d).expected = x.expected := by
  simp only [mismatchFrame]
  (repeat' split) <;> rfl
@[simp] theorem mismatchFrame_len (x : RxEngine) (d : DataFrame) : (mismatchFrame x d).len = x.len := by
  simp only [mismatchFrame]
  (repeat' split) <;> rfl
@[simp] theorem mismatchFrame_accepted (x : RxEngine) (d : DataFrame) : (mismatchFrame x d).accepted = x.accepted := by
  simp only [mismatchFrame]
  (repeat' split) <;> rfl
@[simp] theorem mismatchFrame_err (x : RxEngine) (d : DataFrame) : (mismatchFrame x d).err = x.err := by
  simp only [mismatchFrame]
  (repeat' split) <;> rfl
@[simp] theorem mismatchFrame_cfgM (x : RxEngine) (d : DataFrame) : (mismatchFrame x d).cfgM = x.cfgM := by
  simp only [mismatchFrame]
  (repeat' split) <;> rfl
@[simp] theorem mismatchFrame_cfgLoss (x : RxEngine) (d : DataFrame) : (mismatchFrame x d).cfgLoss = x.cfgLoss := by
  simp only [mismatchFrame]
  (repeat' split) <;> rfl
@[simp] theorem mismatchFrame_buf (x : RxEngine) (d : DataFrame) : (mismatchFrame x d).buf = x.buf := by
  simp only [mismatchFrame]
  (repeat' split) <;> rfl
@[simp] theorem mismatchFrame_out (x : RxEngine) (d : DataFrame) : (mismatchFrame x d).out = (if x.expected = 0 then x.out else x.out ++ [encodeAck (x.expected - 1) d.sid]) := by
  simp only [mismatchFrame]
  (repeat' split) <;> simp_all

end Sys2Proof.Machine
end

