-- ==== Sys2Proof/Laws/Effects.lean ====
section
/-! SUPPORT. The effects of the shared operations as one record update each, and what a segment fetch gives. -/

namespace Sys2Proof.Machine

/-- Adding one to a 16-bit value below its largest does not wrap. -/
theorem half_succ {k : Half} (h : k.toNat < 65535) : (k + 1).toNat = k.toNat + 1 := by
  rw [BitVec.toNat_add]
  show (k.toNat + 1) % 65536 = _
  omega

/-- Adding one to a 16-bit value other than 0xFFFF does not wrap. -/
theorem half_succ_of_ne {k : Half} (h : k ≠ 0xFFFF) : (k + 1).toNat = k.toNat + 1 := by
  apply half_succ
  have := k.isLt
  have : k.toNat ≠ 65535 := fun h' => h (BitVec.eq_of_toNat_eq h')
  omega

/-- Taking one from a non-zero value of any width does not wrap. -/
theorem toNat_pred {n : Nat} {v : BitVec n} (h : v ≠ 0) : (v - 1).toNat = v.toNat - 1 := by
  have hv : v.toNat ≠ 0 := fun h0 => h (BitVec.eq_of_toNat_eq (by simpa using h0))
  have hlt := v.isLt
  have hn : n ≠ 0 := by rintro rfl; omega
  have h1 : (1 : BitVec n).toNat = 1 := Nat.mod_eq_of_lt (Nat.one_lt_two_pow hn)
  exact (BitVec.toNat_sub_of_le (by rw [BitVec.le_def, h1]; omega)).trans (by rw [h1])

/-- A byte count that stays within a capacity does not wrap. -/
theorem word_add {a : Word} {n cap : Nat} (h : a.toNat + n ≤ cap) (hc : cap ≤ 4294967295) :
    (a + BitVec.ofNat 32 n).toNat = a.toNat + n := by
  rw [BitVec.toNat_add, BitVec.toNat_ofNat]; omega

/-- The window after an ack (R169, R170). -/
theorem advanceWindow_eq (x : TxEngine) (k : Half) : advanceWindow x k = { x with
    base := k + 1
    tmrRun := decide (k + 1 ≠ x.next)
    tmrCount := if k + 1 = x.next then 0 else x.cfgTimeout
    state := if k + 1 = x.nseg then .done else x.state
    tEnd := if k + 1 = x.nseg then x.time else x.tEnd } := by
  unfold advanceWindow
  by_cases h1 : k + 1 = x.next
  · simp only [if_pos h1, timerStop, decide_eq_false (not_not.2 h1)]
    by_cases h2 : k + 1 = x.nseg
    · simp only [if_pos h2]
    · simp only [if_neg h2]
  · simp only [if_neg h1, timerRestart, decide_eq_true h1]
    by_cases h2 : k + 1 = x.nseg
    · simp only [if_pos h2]
    · simp only [if_neg h2]

/-- Sending the next segment (R166). -/
theorem sendNext_eq (x : TxEngine) (f : Frame) : sendNext x f = { x with
    out := x.out ++ [f]
    tmrRun := if x.base = x.next then true else x.tmrRun
    tmrCount := if x.base = x.next then x.cfgTimeout else x.tmrCount
    next := x.next + 1
    sent := x.sent + 1 } := by
  unfold sendNext
  by_cases h : x.base = x.next
  · simp only [emitTx, if_pos h, timerStart]
  · simp only [emitTx, if_neg h]

/-- The burst of a timeout (R190). -/
theorem retransmit_eq (x : TxEngine) (fs : List Frame) : retransmit x fs = { x with
    out := x.out ++ fs
    retx := x.retx + BitVec.ofNat 32 (inFlight x)
    sent := x.sent + BitVec.ofNat 32 (inFlight x)
    tmrRun := true
    tmrCount := x.cfgTimeout } := rfl

/-- One tick (R188). -/
theorem tick_eq (x : TxEngine) : tick x = { x with
    time := x.time + 1
    tmrCount := if x.tmrRun = true ∧ x.tmrCount ≠ 0 then x.tmrCount - 1 else x.tmrCount } := by
  unfold tick
  by_cases h : x.tmrRun = true ∧ x.tmrCount ≠ 0
  · have hb : (x.tmrRun && decide (x.tmrCount ≠ 0)) = true := by
      simpa only [Bool.and_eq_true, decide_eq_true_eq] using h
    simp only [if_pos h, if_pos hb]
  · have hb : ¬ ((x.tmrRun && decide (x.tmrCount ≠ 0)) = true) := by
      simpa only [Bool.and_eq_true, decide_eq_true_eq] using h
    simp only [if_neg h, if_neg hb]

/-- An accepted frame (R140, R142). -/
theorem acceptFrame_eq (x : RxEngine) (d : DataFrame) : acceptFrame x d = { x with
    out := x.out ++ [encodeAck x.expected d.sid]
    buf := memWrite x.buf x.len.toNat d.payload
    len := x.len + BitVec.ofNat 32 d.payload.length
    expected := x.expected + 1
    accepted := x.accepted + 1
    state := if d.last then .done else x.state } := rfl

/-- A frame the mismatch action answers (R141). -/
theorem mismatchFrame_eq (x : RxEngine) (d : DataFrame) : mismatchFrame x d = { x with
    out := if x.expected = 0 then x.out else x.out ++ [encodeAck (x.expected - 1) d.sid] } := by
  unfold mismatchFrame
  by_cases h : x.expected = 0
  · simp only [if_pos h]
  · simp only [if_neg h, emitRx]

/-- The frame of a segment whose cells hold `p`. -/
theorem segmentFrame_eq_some_iff (x : TxEngine) (i : Nat) (f : Frame) : segmentFrame x i = some f ↔
    ∃ p : Frame, p.length = segLen x i ∧ (∀ j, j < p.length → cellRead x.buf (segOff x i + j) = p[j]?) ∧
      f = (encodeData (BitVec.ofNat 16 i) x.cfgSid (decide (i = x.nseg.toNat - 1)) p).2 := by
  unfold segmentFrame segment
  constructor
  · intro h
    split at h
    · cases h
    · rename_i p hp
      obtain ⟨hl, hc⟩ := (memRead_eq_some_iff _ _ _ _).1 hp
      cases h
      exact ⟨p, hl, by rwa [hl], rfl⟩
  · rintro ⟨p, hl, hc, rfl⟩
    rw [(memRead_eq_some_iff _ _ _ p).2 ⟨hl, by rwa [hl] at hc⟩]

/-- A segment's frame cannot be built exactly where a cell of it is unwritten (R64). -/
theorem segmentFrame_eq_none_iff (x : TxEngine) (i : Nat) : segmentFrame x i = none ↔
    ∃ j, j < segLen x i ∧ cellRead x.buf (segOff x i + j) = none := by
  rw [← memRead_eq_none_iff]
  unfold segmentFrame segment
  split <;> simp_all

/-- A burst's frames are its segments' frames, in ascending order. -/
theorem segmentFrames_eq_some_iff (x : TxEngine) (k i : Nat) (fs : List Frame) : segmentFrames x i k = some fs ↔
    fs.length = k ∧ ∀ j, j < k → segmentFrame x (i + j) = fs[j]? := by
  induction k generalizing i fs with
  | zero => cases fs <;> simp [segmentFrames]
  | succ k ih =>
    constructor
    · intro h
      simp only [segmentFrames] at h
      split at h
      · rename_i f rest hf hr
        obtain ⟨hl, hc⟩ := (ih (i + 1) rest).1 hr
        cases h
        refine ⟨by simp [hl], fun j hj => ?_⟩
        cases j with
        | zero => simpa using hf
        | succ j =>
          rw [List.getElem?_cons_succ, ← hc j (by omega)]
          congr 1; omega
      · cases h
    · rintro ⟨hl, hc⟩
      cases fs with
      | nil => simp at hl
      | cons f rest =>
        have h0 : segmentFrame x i = some f := by simpa using hc 0 (by omega)
        have hr : segmentFrames x (i + 1) k = some rest := by
          refine (ih (i + 1) rest).2 ⟨by simpa using hl, fun j hj => ?_⟩
          have := hc (j + 1) (by omega)
          rw [List.getElem?_cons_succ] at this
          rw [← this]; congr 1; omega
        simp [segmentFrames, h0, hr]

/-- A burst cannot be built exactly where one of its segments cannot. -/
theorem segmentFrames_eq_none_iff (x : TxEngine) (k i : Nat) : segmentFrames x i k = none ↔
    ∃ j, j < k ∧ segmentFrame x (i + j) = none := by
  induction k generalizing i with
  | zero => simp [segmentFrames]
  | succ k ih =>
    constructor
    · intro h
      cases h0 : segmentFrame x i with
      | none => exact ⟨0, by omega, by simpa using h0⟩
      | some f =>
        have : segmentFrames x (i + 1) k = none := by
          cases hr : segmentFrames x (i + 1) k with
          | none => rfl
          | some rest => simp [segmentFrames, h0, hr] at h
        obtain ⟨j, hj, hc⟩ := (ih (i + 1)).1 this
        exact ⟨j + 1, by omega, by rw [← hc]; congr 1; omega⟩
    · rintro ⟨j, hj, hc⟩
      cases j with
      | zero => simp [segmentFrames, show segmentFrame x i = none by simpa using hc]
      | succ j =>
        have : segmentFrames x (i + 1) k = none := (ih (i + 1)).2 ⟨j, by omega, by rw [← hc]; congr 1; omega⟩
        simp only [segmentFrames, this]
        split <;> simp_all

end Sys2Proof.Machine
end

