-- ==== Sys2Proof/Laws/Moves.lean ====
section
/-! SUPPORT. Everything an operation can do, said once: `exec_txMove` for the TX engine, `exec_rxMove` for the RX engine,
`exec_context` for the rest. Claims over all instructions are case splits on these moves, not on `exec`. -/

namespace Sys2Proof.Machine

/-- The bytes an instruction brings to the TX engine's input. -/
def ackBytes : Instr → Option Frame
  | .txAckIn frame _ => some frame
  | .ack ackNum sid => some (encodeAck ackNum sid)
  | _ => none

/-- The bytes an instruction brings to the RX engine's input. -/
def dataBytes : Instr → Option Frame
  | .rxFrameIn frame _ => some frame
  | .data seq sid payload => some (encodeData seq sid false payload).2
  | .dataLast seq sid payload => some (encodeData seq sid true payload).2
  | _ => none

/-- What a completed operation can do to the TX engine. -/
inductive TxMove (p : Params) (x : TxEngine) : Instr → TxEngine → Prop where
  | stay (i : Instr) : TxMove p x i x
  | error (i : Instr) (e : ErrCode) (d : Byte) : TxMove p x i { x with err := recordError x.err e d }
  | begin_ (hs : x.state ≠ .active) (hm : 1 ≤ x.cfgM.toNat ∧ x.cfgM.toNat ≤ 65529) (hw : 1 ≤ x.cfgW.toNat)
      (ht : 1 ≤ x.cfgTimeout.toNat) (hl : x.len.toNat ≤ p.txCap)
      (hn : ceilDiv x.len.toNat x.cfgM.toNat ≤ 65535) : TxMove p x .txStart (beginTransfer x)
  | send (f : Frame) (hs : x.state = .active) (hw : x.next.toNat < x.base.toNat + x.cfgW.toNat)
      (hn : x.next.toNat < x.nseg.toNat) (hf : segmentFrame x x.next.toNat = some f) :
      TxMove p x .txSend (sendNext x f)
  | ack (i : Instr) (b : Frame) (a : AckFrame) (hb : ackBytes i = some b) (hd : decodeAck b = .ok a)
      (hs : x.state = .active) (hk : a.ackNum.toNat < x.next.toNat) (hk' : x.base.toNat ≤ a.ackNum.toNat + 1) :
      TxMove p x i (advanceWindow x a.ackNum)
  | tick : TxMove p x .txTick (tick x)
  | burst (fs : List Frame) (hs : x.state = .active) (hr : x.tmrRun = true) (hc : x.tmrCount = 0)
      (hf : segmentFrames x x.base.toNat (inFlight x) = some fs) : TxMove p x .txTimeout (retransmit x fs)
  | config (c : BitVec 6) (w : Word) (hs : x.state ≠ .active) (ctrl len cfgTimeout : Word)
      (cfgM cfgW cfgSid cfgLoss : Half) (hc : ctrl = x.ctrl ∨ ctrl = w &&& 1) :
      TxMove p x (.csrWrite c w) { x with
        ctrl := ctrl, len := len, cfgTimeout := cfgTimeout, cfgM := cfgM, cfgW := cfgW, cfgSid := cfgSid,
        cfgLoss := cfgLoss }
  | clear (w : Word) : TxMove p x (.csrWrite 0x02 w) { x with err := 0 }
  | store (a w : Word) (hs : x.state ≠ .active) (ha : a.toNat < p.txCap) :
      TxMove p x (.txbufWrite a w) { x with buf := memWrite x.buf a.toNat [w.setWidth 8] }

/-- What a completed operation can do to the RX engine. -/
inductive RxMove (p : Params) (x : RxEngine) : Instr → RxEngine → Prop where
  | stay (i : Instr) : RxMove p x i x
  | error (i : Instr) (e : ErrCode) (d : Byte) : RxMove p x i { x with err := recordError x.err e d }
  | begin_ (hs : x.state ≠ .await) (hm : 1 ≤ x.cfgM.toNat ∧ x.cfgM.toNat ≤ 65529) :
      RxMove p x .rxStart (beginReceive x)
  | accept (i : Instr) (b : Frame) (d : DataFrame) (hb : dataBytes i = some b) (hd : decodeData b = .ok d)
      (hs : x.state = .await) (hm : d.payload.length ≤ x.cfgM.toNat) (he : d.seq = x.expected)
      (hf : x.expected ≠ 0xFFFF) (hc : x.len.toNat + d.payload.length ≤ p.rxCap) : RxMove p x i (acceptFrame x d)
  | mismatch (i : Instr) (b : Frame) (d : DataFrame) (hb : dataBytes i = some b) (hd : decodeData b = .ok d)
      (hs : x.state = .await) (he : d.seq ≠ x.expected ∨ x.expected = 0xFFFF) : RxMove p x i (mismatchFrame x d)
  | config (c : BitVec 6) (w : Word) (hs : x.state ≠ .await) (cfgM cfgLoss : Half) :
      RxMove p x (.csrWrite c w) { x with cfgM := cfgM, cfgLoss := cfgLoss }
  | clear (w : Word) : RxMove p x (.csrWrite 0x21 w) { x with err := 0 }

/-! ## The moves of the shared operations -/

/-- What the window logic can do with an inbound ack. -/
theorem ackArrives_move (p : Params) (x : TxEngine) (i : Instr) (b : Frame) (r : Half) (hb : ackBytes i = some b) :
    TxMove p x i (ackArrives x b r) := by
  unfold ackArrives
  split
  · exact .stay i
  · rename_i hs
    split
    · exact .stay i
    · split
      · exact .stay i
      · rename_i a hd
        unfold takeAck
        split
        · exact .stay i
        · split
          · exact .stay i
          · exact .ack i b a hb hd (by simpa using hs) (by omega) (by omega)

/-- What the reassembly logic can do with an inbound frame: only the RX engine moves. -/
theorem frameArrives_move (s : State) (i : Instr) (b : Frame) (r : Half) (hb : dataBytes i = some b) :
    ∃ y, frameArrives s b r = { s with rx := y } ∧ RxMove s.params s.rx i y := by
  unfold frameArrives
  split
  · exact ⟨s.rx, rfl, .stay i⟩
  · rename_i hs
    have hs : s.rx.state = .await := by simpa using hs
    split
    · exact ⟨s.rx, rfl, .stay i⟩
    · split
      · exact ⟨s.rx, rfl, .stay i⟩
      · rename_i d hd
        unfold takeData
        split
        · exact ⟨s.rx, rfl, .stay i⟩
        · split
          · rename_i hm he
            split
            · exact ⟨_, rfl, .error i _ _⟩
            · exact ⟨_, rfl, .accept i b d hb hd hs (by omega) he.1 he.2 (by omega)⟩
          · rename_i hm he
            refine ⟨_, rfl, .mismatch i b d hb hd hs ?_⟩
            by_cases h : d.seq = s.rx.expected
            · exact .inr (by simpa [h] using he)
            · exact .inl h

/-- The index of `TX_ERR`. -/
theorem csrAt_txErr {c : BitVec 6} (h : csrAt c = some .txErr) : c = 0x02 := by
  revert c; decide

/-- The index of `RX_ERR`. -/
theorem csrAt_rxErr {c : BitVec 6} (h : csrAt c = some .rxErr) : c = 0x21 := by
  revert c; decide

/-- What a CSR write can do: one engine at most moves. -/
theorem csrWrite_move (s : State) (c : BitVec 6) (w : Word) :
    TxMove s.params s.tx (.csrWrite c w) (csrWrite s c w).tx ∧ RxMove s.params s.rx (.csrWrite c w) (csrWrite s c w).rx ∧
      (csrWrite s c w).params = s.params ∧ (csrWrite s c w).inputs = s.inputs ∧ (csrWrite s c w).fresh = s.fresh := by
  have tx : ∀ f, (∀ x : TxEngine, x.state ≠ .active → TxMove s.params x (.csrWrite c w) (f x)) →
      TxMove s.params s.tx (.csrWrite c w) (storeTxConfig s f).tx ∧
      RxMove s.params s.rx (.csrWrite c w) (storeTxConfig s f).rx ∧ (storeTxConfig s f).params = s.params ∧
      (storeTxConfig s f).inputs = s.inputs ∧ (storeTxConfig s f).fresh = s.fresh := by
    intro f hf
    unfold storeTxConfig
    split
    · exact ⟨.error _ _ _, .stay _, rfl, rfl, rfl⟩
    · rename_i h
      exact ⟨hf _ h, .stay _, rfl, rfl, rfl⟩
  have rx : ∀ f, (∀ x : RxEngine, x.state ≠ .await → RxMove s.params x (.csrWrite c w) (f x)) →
      TxMove s.params s.tx (.csrWrite c w) (storeRxConfig s f).tx ∧
      RxMove s.params s.rx (.csrWrite c w) (storeRxConfig s f).rx ∧ (storeRxConfig s f).params = s.params ∧
      (storeRxConfig s f).inputs = s.inputs ∧ (storeRxConfig s f).fresh = s.fresh := by
    intro f hf
    unfold storeRxConfig
    split
    · exact ⟨.stay _, .error _ _ _, rfl, rfl, rfl⟩
    · rename_i h
      exact ⟨.stay _, hf _ h, rfl, rfl, rfl⟩
  have quiet : TxMove s.params s.tx (.csrWrite c w) s.tx ∧ RxMove s.params s.rx (.csrWrite c w) s.rx ∧
      s.params = s.params ∧ s.inputs = s.inputs ∧ s.fresh = s.fresh := ⟨.stay _, .stay _, rfl, rfl, rfl⟩
  unfold csrWrite
  cases hc : csrAt c with
  | none => exact quiet
  | some k =>
    cases k with
    | txErr =>
      cases csrAt_txErr hc
      exact ⟨.clear w, .stay _, rfl, rfl, rfl⟩
    | rxErr =>
      cases csrAt_rxErr hc
      exact ⟨.stay _, .clear w, rfl, rfl, rfl⟩
    | txCtrl => exact tx _ fun x h => .config c w h (w &&& 1) x.len x.cfgTimeout x.cfgM x.cfgW x.cfgSid x.cfgLoss (.inr rfl)
    | cfgM => exact tx _ fun x h => .config c w h x.ctrl x.len x.cfgTimeout _ x.cfgW x.cfgSid x.cfgLoss (.inl rfl)
    | cfgW => exact tx _ fun x h => .config c w h x.ctrl x.len x.cfgTimeout x.cfgM _ x.cfgSid x.cfgLoss (.inl rfl)
    | cfgTimeout => exact tx _ fun x h => .config c w h x.ctrl x.len _ x.cfgM x.cfgW x.cfgSid x.cfgLoss (.inl rfl)
    | cfgSid => exact tx _ fun x h => .config c w h x.ctrl x.len x.cfgTimeout x.cfgM x.cfgW _ x.cfgLoss (.inl rfl)
    | cfgLoss => exact tx _ fun x h => .config c w h x.ctrl x.len x.cfgTimeout x.cfgM x.cfgW x.cfgSid _ (.inl rfl)
    | txLen => exact tx _ fun x h => .config c w h x.ctrl _ x.cfgTimeout x.cfgM x.cfgW x.cfgSid x.cfgLoss (.inl rfl)
    | rxCfgM => exact rx _ fun x h => .config c w h _ x.cfgLoss
    | rxCfgLoss => exact rx _ fun x h => .config c w h x.cfgM _
    | txStatus => exact quiet
    | txBase => exact quiet
    | txNext => exact quiet
    | txNseg => exact quiet
    | tmrCount => exact quiet
    | txTime => exact quiet
    | txSent => exact quiet
    | txRetx => exact quiet
    | txTStart => exact quiet
    | txTEnd => exact quiet
    | rxStatus => exact quiet
    | rxExpected => exact quiet
    | rxLen => exact quiet
    | rxAccepted => exact quiet

/-- The checks of a `TX_START` that passes (R162). -/
theorem txConfigError_none {s : State} (h : txConfigError s = none) :
    (1 ≤ s.tx.cfgM.toNat ∧ s.tx.cfgM.toNat ≤ 65529) ∧ 1 ≤ s.tx.cfgW.toNat ∧ 1 ≤ s.tx.cfgTimeout.toNat ∧
      s.tx.len.toNat ≤ s.params.txCap ∧ ceilDiv s.tx.len.toNat s.tx.cfgM.toNat ≤ 65535 := by
  unfold txConfigError at h
  repeat' split at h
  · cases h
  · cases h
  · cases h
  · cases h
  · cases h
  · simp only [maxPayload] at *
    omega

/-- The guard of `TX_SEND` (R165). -/
theorem txSendEnabled_iff (x : TxEngine) : txSendEnabled x = true ↔
    x.state = .active ∧ x.next.toNat < x.base.toNat + x.cfgW.toNat ∧ x.next.toNat < x.nseg.toNat := by
  simp [txSendEnabled, and_assoc]

/-- The guard of `TX_TIMEOUT` (R189). -/
theorem txTimeoutEnabled_iff (x : TxEngine) : txTimeoutEnabled x = true ↔
    x.state = .active ∧ x.tmrRun = true ∧ x.tmrCount = 0 := by
  simp [txTimeoutEnabled, and_assoc]

/-! ## Everything an operation can do -/

/-- What a completed operation does to each part of the state. -/
structure Moved (i : Instr) (s t : State) : Prop where
  tx : TxMove s.params s.tx i t.tx
  rx : RxMove s.params s.rx i t.rx
  params : t.params = s.params
  inputs : t.inputs = s.inputs

theorem Moved.ofTx {i : Instr} {s t : State} (h : TxMove s.params s.tx i t.tx) (hr : t.rx = s.rx)
    (hp : t.params = s.params) (hi : t.inputs = s.inputs) : Moved i s t := ⟨h, by rw [hr]; exact .stay i, hp, hi⟩

theorem Moved.ofRx {i : Instr} {s t : State} (h : RxMove s.params s.rx i t.rx) (hr : t.tx = s.tx)
    (hp : t.params = s.params) (hi : t.inputs = s.inputs) : Moved i s t := ⟨by rw [hr]; exact .stay i, h, hp, hi⟩

theorem Moved.quiet {i : Instr} {s t : State} (hx : t.tx = s.tx) (hr : t.rx = s.rx)
    (hp : t.params = s.params) (hi : t.inputs = s.inputs) : Moved i s t :=
  ⟨by rw [hx]; exact .stay i, by rw [hr]; exact .stay i, hp, hi⟩

/-- The inversion lemma of `exec`. -/
theorem exec_moved {i : Instr} {s t : State} (h : exec i s = .next t) : Moved i s t := by
  cases i with
  | encData seq sid last payload => cases h; exact .quiet rfl rfl rfl rfl
  | decData frame =>
    simp only [exec, execDecData] at h
    split at h <;> cases h <;> exact .quiet rfl rfl rfl rfl
  | encAck ackNum sid => cases h; exact .quiet rfl rfl rfl rfl
  | decAck frame =>
    simp only [exec, execDecAck] at h
    split at h <;> cases h <;> exact .quiet rfl rfl rfl rfl
  | txStart =>
    simp only [exec, execTxStart] at h
    split at h
    · cases h; exact .ofTx (.error _ _ _) rfl rfl rfl
    · rename_i hs
      split at h
      · cases h; exact .ofTx (.error _ _ _) rfl rfl rfl
      · rename_i hc
        obtain ⟨hm, hw, ht, hl, hn⟩ := txConfigError_none hc
        cases h; exact .ofTx (.begin_ hs hm hw ht hl hn) rfl rfl rfl
  | txSend =>
    simp only [exec, execTxSend] at h
    split at h
    · rename_i he
      obtain ⟨hs, hw, hn⟩ := (txSendEnabled_iff _).1 he
      split at h
      · cases h
      · rename_i f hf
        cases h; exact .ofTx (.send f hs hw hn hf) rfl rfl rfl
    · cases h; exact .quiet rfl rfl rfl rfl
  | txAckIn frame r =>
    cases h; exact .ofTx (ackArrives_move _ _ _ _ _ rfl) rfl rfl rfl
  | txTick => cases h; exact .ofTx .tick rfl rfl rfl
  | txTimeout =>
    simp only [exec, execTxTimeout] at h
    split at h
    · rename_i he
      obtain ⟨hs, hr, hc⟩ := (txTimeoutEnabled_iff _).1 he
      split at h
      · cases h
      · rename_i fs hf
        cases h; exact .ofTx (.burst fs hs hr hc hf) rfl rfl rfl
    · cases h; exact .quiet rfl rfl rfl rfl
  | rxStart =>
    simp only [exec, execRxStart] at h
    split at h
    · cases h; exact .ofRx (.error _ _ _) rfl rfl rfl
    · rename_i hs
      split at h
      · cases h; exact .ofRx (.error _ _ _) rfl rfl rfl
      · rename_i hm
        simp only [maxPayload] at hm
        cases h; exact .ofRx (.begin_ hs (by omega)) rfl rfl rfl
  | rxFrameIn frame r =>
    obtain ⟨y, he, hy⟩ := frameArrives_move s (.rxFrameIn frame r) frame r rfl
    simp only [exec, execRxFrameIn, he] at h
    cases h; exact .ofRx hy rfl rfl rfl
  | csrRead csr => cases h; exact .quiet rfl rfl rfl rfl
  | csrWrite csr wdata =>
    obtain ⟨ht, hr, hp, hi, -⟩ := csrWrite_move s csr wdata
    cases h; exact ⟨ht, hr, hp, hi⟩
  | txbufWrite addr wdata =>
    simp only [exec, execTxbufWrite] at h
    split at h
    · cases h; exact .ofTx (.error _ _ _) rfl rfl rfl
    · rename_i hs
      split at h
      · cases h; exact .ofTx (.error _ _ _) rfl rfl rfl
      · rename_i ha
        cases h; exact .ofTx (.store addr wdata hs (by omega)) rfl rfl rfl
  | rxbufRead addr =>
    simp only [exec, execRxbufRead] at h
    split at h
    · cases h; exact .ofRx (by rw [answerAnyByte_rx]; exact .error _ _ _) (by simp) (by simp) (by simp)
    · split at h
      · cases h; exact .quiet rfl rfl rfl rfl
      · cases h; exact .quiet (by simp) (by simp) (by simp) (by simp)
  | statsSnapshot => cases h; exact .quiet rfl rfl rfl rfl
  | data seq sid payload =>
    obtain ⟨y, he, hy⟩ := frameArrives_move s.useFresh (.data seq sid payload) _ (Config.draw s.fresh) rfl
    simp only [exec, execData, he] at h
    cases h; exact .ofRx hy rfl rfl rfl
  | dataLast seq sid payload =>
    obtain ⟨y, he, hy⟩ := frameArrives_move s.useFresh (.dataLast seq sid payload) _ (Config.draw s.fresh) rfl
    simp only [exec, execDataLast, he] at h
    cases h; exact .ofRx hy rfl rfl rfl
  | ack ackNum sid =>
    cases h
    exact .ofTx (ackArrives_move s.params s.tx (.ack ackNum sid) (encodeAck ackNum sid) (Config.draw s.fresh) rfl) rfl rfl rfl

end Sys2Proof.Machine
end

