-- ==== Sys2Proof/Laws/PerInstr.lean ====
section
/-! SUPPORT. Statements about every instruction as syntax, one lemma per constructor. The family `Presentable`: the encoding
of a well-formed instruction is one its port can carry (30_encoding.md R95, R99), of the kind of its port (R92), from the
agent R96 names, and no reserved op code (R97). -/

namespace Sys2Proof.Laws.Presentable

/-- What a port can carry: a record with a listed op code and byte sequences of at most 65535 bytes, or a datagram of at most
65535 bytes with the length of its port's kind. -/
def carried (who : Agent) : Encoded → Prop
  | .port c => (opRow c.op).map OpRow.who = some who ∧ c.payload.length ≤ 65535 ∧ c.frame.length ≤ 65535
  | .datagram .rx b => who = .forwardChannel ∧ 6 ≤ b.length ∧ b.length ≤ 65535
  | .datagram .tx b => who = .reverseChannel ∧ b.length = 4

/-- The encoding of a well-formed instruction is carried by its port, from its issuer. -/
def Statement (i : Instr) : Prop := i.WellFormed → carried (issuer i) (encode i)

/-- A byte sequence that fits a record. -/
theorem length_of_fits {b : Frame} (h : fitsRecord b = true) : b.length ≤ 65535 := by simpa [fitsRecord] using h

/-- A wire data frame whose payload fits has a length of its kind. -/
theorem dataFrame_carried (seq sid : Half) (last : Bool) {p : Frame} (h : fitsFrame p = true) :
    6 ≤ (encodeData seq sid last p).2.length ∧ (encodeData seq sid last p).2.length ≤ 65535 := by
  have hp : p.length ≤ 65529 := by simpa [fitsFrame] using h
  rw [encodeData_ok seq sid last hp]
  simp only [List.length_append, le16_length, trailer_length]
  omega

theorem encData (seq sid : Half) (last : Bool) (payload : Frame) : Statement (.encData seq sid last payload) :=
  fun h => ⟨rfl, length_of_fits h, Nat.zero_le _⟩

theorem decData (frame : Frame) : Statement (.decData frame) := fun h => ⟨rfl, Nat.zero_le _, length_of_fits h⟩

theorem encAck (ackNum sid : Half) : Statement (.encAck ackNum sid) := fun _ => ⟨rfl, Nat.zero_le _, Nat.zero_le _⟩

theorem decAck (frame : Frame) : Statement (.decAck frame) := fun h => ⟨rfl, Nat.zero_le _, length_of_fits h⟩

theorem txStart : Statement .txStart := fun _ => ⟨rfl, Nat.zero_le _, Nat.zero_le _⟩

theorem txSend : Statement .txSend := fun _ => ⟨rfl, Nat.zero_le _, Nat.zero_le _⟩

theorem txAckIn (frame : Frame) (r : Half) : Statement (.txAckIn frame r) :=
  fun h => ⟨rfl, Nat.zero_le _, length_of_fits h⟩

theorem txTick : Statement .txTick := fun _ => ⟨rfl, Nat.zero_le _, Nat.zero_le _⟩

theorem txTimeout : Statement .txTimeout := fun _ => ⟨rfl, Nat.zero_le _, Nat.zero_le _⟩

theorem rxStart : Statement .rxStart := fun _ => ⟨rfl, Nat.zero_le _, Nat.zero_le _⟩

theorem rxFrameIn (frame : Frame) (r : Half) : Statement (.rxFrameIn frame r) :=
  fun h => ⟨rfl, Nat.zero_le _, length_of_fits h⟩

theorem csrRead (csr : BitVec 6) : Statement (.csrRead csr) := fun _ => ⟨rfl, Nat.zero_le _, Nat.zero_le _⟩

theorem csrWrite (csr : BitVec 6) (wdata : Word) : Statement (.csrWrite csr wdata) :=
  fun _ => ⟨rfl, Nat.zero_le _, Nat.zero_le _⟩

theorem txbufWrite (addr wdata : Word) : Statement (.txbufWrite addr wdata) :=
  fun _ => ⟨rfl, Nat.zero_le _, Nat.zero_le _⟩

theorem rxbufRead (addr : Word) : Statement (.rxbufRead addr) := fun _ => ⟨rfl, Nat.zero_le _, Nat.zero_le _⟩

theorem statsSnapshot : Statement .statsSnapshot := fun _ => ⟨rfl, Nat.zero_le _, Nat.zero_le _⟩

theorem data (seq sid : Half) (payload : Frame) : Statement (.data seq sid payload) :=
  fun h => ⟨rfl, dataFrame_carried seq sid false h⟩

theorem dataLast (seq sid : Half) (payload : Frame) : Statement (.dataLast seq sid payload) :=
  fun h => ⟨rfl, dataFrame_carried seq sid true h⟩

theorem ack (ackNum sid : Half) : Statement (.ack ackNum sid) := fun _ => ⟨rfl, rfl⟩

end Sys2Proof.Laws.Presentable
end

