-- ==== Sys2Proof/Laws/Step.lean ====
section
/-! SUPPORT. Everything a step can do, said once, and the induction packaged: an invariant that survives every operation,
the loss of queued frames and `RESET` survives every step. -/

namespace Sys2Proof.Machine

/-- What the fetch may do to the state it hands on: a channel may have taken frames out of an output queue. -/
structure Handed (s t : State) : Prop where
  params : t.params = s.params
  tx : ∃ o, (∀ f ∈ o, f ∈ s.tx.out) ∧ t.tx = { s.tx with out := o }
  rx : ∃ o, (∀ f ∈ o, f ∈ s.rx.out) ∧ t.rx = { s.rx with out := o }

theorem Handed.same {s t : State} (hp : t.params = s.params) (ht : t.tx = s.tx) (hr : t.rx = s.rx) : Handed s t :=
  ⟨hp, ⟨s.tx.out, fun _ h => h, ht⟩, ⟨s.rx.out, fun _ h => h, hr⟩⟩

/-- An admitted record runs its instruction in the state it was presented in, from the agent R96 names. -/
theorem takeRecord_run {who : Agent} {c : OpRecord} {s t : State} {i : Instr} (h : takeRecord who c s = .run i t) :
    decodeOp c = .ok i ∧ issuer i = who ∧ t = s := by
  unfold takeRecord at h
  split at h
  · cases h
  · rename_i j hj
    split at h
    · rename_i hw; cases h; exact ⟨hj, hw, rfl⟩
    · cases h

theorem takeRecord_not_idle {who : Agent} {c : OpRecord} {s t : State} (h : takeRecord who c s = .idle t) : False := by
  unfold takeRecord at h
  split at h
  · cases h
  · split at h <;> cases h

/-- A queue after a channel's delivery holds only frames it held. -/
theorem taken_subset (keep : Bool) (q : List Frame) (k : Nat) :
    ∀ f ∈ (if keep then q else q.eraseIdx k), f ∈ q := by
  intro f h
  split at h
  · exact h
  · exact (List.eraseIdx_sublist (l := q) (k := k)).subset h

theorem takeInput_run {x : Input} {s t : State} {i : Instr} (h : takeInput x s = .run i t) : Handed s t := by
  cases x with
  | present who c => obtain ⟨-, -, rfl⟩ := takeRecord_run h; exact .same rfl rfl rfl
  | datagram e b =>
    simp only [takeInput, arrive] at h
    split at h <;> cases h <;> exact .same rfl rfl rfl
  | forward act =>
    cases act with
    | lose =>
      simp only [takeInput, forwardStep] at h
      split at h <;> cases h
    | deliver k keep r =>
      simp only [takeInput, forwardStep] at h
      split at h
      · split at h
        · cases h
        · obtain ⟨-, -, rfl⟩ := takeRecord_run h
          exact ⟨rfl, ⟨_, taken_subset keep _ k, rfl⟩, ⟨_, fun _ h => h, rfl⟩⟩
      · cases h
  | reverse act =>
    cases act with
    | lose =>
      simp only [takeInput, reverseStep] at h
      split at h <;> cases h
    | deliver k keep r =>
      simp only [takeInput, reverseStep] at h
      split at h
      · split at h
        · cases h
        · obtain ⟨-, -, rfl⟩ := takeRecord_run h
          exact ⟨rfl, ⟨_, fun _ h => h, rfl⟩, ⟨_, taken_subset keep _ k, rfl⟩⟩
      · cases h
  | reset => cases h

theorem takeInput_idle {x : Input} {s t : State} (h : takeInput x s = .idle t) :
    Handed s t ∨ (x = .reset ∧ t = resetState s) := by
  cases x with
  | present who c => exact (takeRecord_not_idle h).elim
  | datagram e b =>
    simp only [takeInput, arrive] at h
    split at h <;> cases h
  | forward act =>
    left
    cases act with
    | lose =>
      simp only [takeInput, forwardStep] at h
      split at h
      · cases h; exact .same rfl rfl rfl
      · rename_i f q hq
        cases h; exact ⟨rfl, ⟨q, fun _ h => by rw [hq]; exact List.mem_cons_of_mem _ h, rfl⟩, ⟨_, fun _ h => h, rfl⟩⟩
    | deliver k keep r =>
      simp only [takeInput, forwardStep] at h
      split at h
      · split at h
        · cases h; exact .same rfl rfl rfl
        · exact (takeRecord_not_idle h).elim
      · cases h
  | reverse act =>
    left
    cases act with
    | lose =>
      simp only [takeInput, reverseStep] at h
      split at h
      · cases h; exact .same rfl rfl rfl
      · rename_i f q hq
        cases h; exact ⟨rfl, ⟨_, fun _ h => h, rfl⟩, ⟨q, fun _ h => by rw [hq]; exact List.mem_cons_of_mem _ h, rfl⟩⟩
    | deliver k keep r =>
      simp only [takeInput, reverseStep] at h
      split at h
      · split at h
        · cases h; exact .same rfl rfl rfl
        · exact (takeRecord_not_idle h).elim
      · cases h
  | reset => cases h; exact .inr ⟨rfl, rfl⟩

theorem ownStep_run {s t : State} {i : Instr} (h : ownStep s = .run i t) :
    (i = .txSend ∨ i = .txTimeout) ∧ (t = s ∨ t = s.useFresh) := by
  unfold ownStep at h
  split at h
  · simp only [Fetched.run.injEq] at h
    obtain ⟨hi, rfl⟩ := h
    refine ⟨?_, .inr rfl⟩
    split at hi <;> simp [← hi]
  · split at h
    · cases h; exact ⟨.inr rfl, .inl rfl⟩
    · split at h
      · cases h; exact ⟨.inl rfl, .inl rfl⟩
      · cases h

theorem ownStep_idle {s t : State} (h : ownStep s = .idle t) : t = s := by
  unfold ownStep at h
  split at h
  · cases h
  · split at h
    · cases h
    · split at h <;> cases h; rfl

/-- The state the fetch hands to an operation. -/
theorem fetch_run {s t : State} {i : Instr} (h : fetch s = .run i t) : Handed s t := by
  unfold fetch at h
  split at h
  · obtain ⟨-, rfl | rfl⟩ := ownStep_run h <;> exact .same rfl rfl rfl
  · exact ⟨(takeInput_run h).params, (takeInput_run h).tx, (takeInput_run h).rx⟩

/-- The state after a step in which no operation is taken. -/
theorem fetch_idle {s t : State} (h : fetch s = .idle t) :
    Handed s t ∨ (t.tx = TxEngine.reset ∧ t.rx = RxEngine.reset ∧ t.params = s.params) := by
  unfold fetch at h
  split at h
  · rw [ownStep_idle h]; exact .inl (.same rfl rfl rfl)
  · rcases takeInput_idle h with hh | ⟨-, rfl⟩
    · exact .inl ⟨hh.params, hh.tx, hh.rx⟩
    · exact .inr ⟨rfl, rfl, rfl⟩

/-- The inversion lemma of `step`. -/
theorem step_cases {s t : State} (h : step s = .next t) :
    (∃ i u, fetch s = .run i u ∧ exec i u = .next t) ∨ fetch s = .idle t := by
  unfold step at h
  split at h
  · rename_i i u hf; exact .inl ⟨i, u, hf, h⟩
  · rename_i u hf; cases h; exact .inr hf
  · cases h

/-- The packaged induction: what every operation, every loss of queued frames and `RESET` keep, every step keeps. -/
theorem step_keeps {P : State → Prop} (hand : ∀ {s t}, Handed s t → P s → P t)
    (reset : ∀ {s t : State}, t.tx = TxEngine.reset → t.rx = RxEngine.reset → t.params = s.params → P s → P t)
    (op : ∀ {i s t}, Moved i s t → P s → P t) {s t : State} (h : step s = .next t) (hp : P s) : P t := by
  rcases step_cases h with ⟨i, u, hf, he⟩ | hf
  · exact op (exec_moved he) (hand (fetch_run hf) hp)
  · rcases fetch_idle hf with hh | ⟨h1, h2, h3⟩
    · exact hand hh hp
    · exact reset h1 h2 h3 hp

end Sys2Proof.Machine
end

