-- ==== Sys2Proof/Laws/Run.lean ====
section
/-! SUPPORT. Sequences of operations, and everything one step of a run can do while a transfer is under way: `run_step`. -/

namespace Sys2Proof.Machine

/-! ## Sequences of operations -/

theorem execAll_append {a b : List Instr} {s t : State} (h : execAll a s = .next t) :
    execAll (a ++ b) s = execAll b t := by
  induction a generalizing s with
  | nil => cases h; rfl
  | cons i a ih =>
    simp only [List.cons_append, execAll] at h ⊢
    split at h
    · exact ih h
    · cases h
    · cases h

/-- Loading cells that exist while no transfer runs (R213). -/
theorem execAll_writeCells (p : Frame) {a : Nat} {s : State} (hs : s.tx.state ≠ .active)
    (hc : a + p.length ≤ s.params.txCap) (hp : s.params.wf) : ∃ u, execAll (writeCells a p) s = .next u ∧
      u.tx = { s.tx with buf := memWrite s.tx.buf a p } ∧ u.rx = s.rx ∧ u.params = s.params := by
  induction p generalizing a s with
  | nil => exact ⟨s, rfl, rfl, rfl, rfl⟩
  | cons v p ih =>
    simp only [List.length_cons] at hc
    have ha : (BitVec.ofNat 32 a).toNat = a := by rw [BitVec.toNat_ofNat]; have := hp.2.1; omega
    let t := (s.onTx fun x => { x with buf := memWrite x.buf a [v] }).complete
    have he : exec (.txbufWrite (BitVec.ofNat 32 a) (v.setWidth 32)) s = .next t := by
      simp only [exec, execTxbufWrite, if_neg hs, ha]
      rw [if_neg (by omega)]
      simp [t]
    obtain ⟨u, h1, h2, h3, h4⟩ := ih (a := a + 1) (s := t) hs (show a + 1 + p.length ≤ s.params.txCap by omega) hp
    exact ⟨u, by simp only [writeCells, execAll, he]; exact h1, h2, h3, h4⟩

/-! ## What a presented record can be -/

/-- A decoded record is the instruction of a row of the op code map (R96). -/
theorem decodeOp_row {c : OpRecord} {i : Instr} (h : decodeOp c = .ok i) :
    ∃ row ∈ opTable, row.op = c.op ∧ i = row.make c := by
  unfold decodeOp at h
  split at h
  · cases h
  · rename_i row hr
    split at h
    · cases h
      exact ⟨row, List.mem_of_find?_eq_some hr, by simpa using List.find?_some hr, rfl⟩
    · cases h

/-- A record that brings bytes to an engine's input comes from the channel of that input (R96, R98), and the bytes are the
record's. -/
theorem decodeOp_arrival {c : OpRecord} {i : Instr} (h : decodeOp c = .ok i) :
    (∀ b, dataBytes i = some b → b = c.frame ∧ issuer i = .forwardChannel) ∧
    ∀ b, ackBytes i = some b → b = c.frame ∧ issuer i = .reverseChannel := by
  obtain ⟨row, hr, -, rfl⟩ := decodeOp_row h
  simp only [opTable, codecRows, txRows, rxRows, hostRows, List.cons_append, List.nil_append, List.mem_cons,
    List.not_mem_nil, or_false] at hr
  rcases hr with rfl | rfl | rfl | rfl | rfl | rfl | rfl | rfl | rfl | rfl | rfl | rfl | rfl | rfl | rfl | rfl <;>
    simp [dataBytes, ackBytes, issuer]

/-- What another agent presents brings no bytes to an engine's input. -/
theorem takeRecord_noBytes {who : Agent} {c : OpRecord} {s u : State} {i : Instr} (h : takeRecord who c s = .run i u)
    (hf : who ≠ .forwardChannel) (hr : who ≠ .reverseChannel) : dataBytes i = none ∧ ackBytes i = none := by
  obtain ⟨hd, hi, -⟩ := takeRecord_run h
  obtain ⟨h1, h2⟩ := decodeOp_arrival hd
  constructor
  · exact Option.eq_none_iff_forall_ne_some.2 fun b hb => hf (hi.symm.trans (h1 b hb).2)
  · exact Option.eq_none_iff_forall_ne_some.2 fun b hb => hr (hi.symm.trans (h2 b hb).2)

/-- A delivery on the forward channel runs `RX_FRAME_IN` of the frame. -/
theorem takeRecord_forward {f : Frame} {r : Half} {s u : State} {i : Instr}
    (h : takeRecord .forwardChannel { op := 0x21, frame := f, r := r } s = .run i u) : i = .rxFrameIn f r ∧ u = s := by
  obtain ⟨hd, -, rfl⟩ := takeRecord_run h
  simp only [decodeOp, show opRow 0x21 = some ⟨0x21, .forwardChannel, fun c => .rxFrameIn c.frame c.r⟩ from rfl] at hd
  split at hd
  · cases hd; exact ⟨rfl, rfl⟩
  · cases hd

/-- A delivery on the reverse channel runs `TX_ACK_IN` of the frame. -/
theorem takeRecord_reverse {f : Frame} {r : Half} {s u : State} {i : Instr}
    (h : takeRecord .reverseChannel { op := 0x12, frame := f, r := r } s = .run i u) : i = .txAckIn f r ∧ u = s := by
  obtain ⟨hd, -, rfl⟩ := takeRecord_run h
  simp only [decodeOp, show opRow 0x12 = some ⟨0x12, .reverseChannel, fun c => .txAckIn c.frame c.r⟩ from rfl] at hd
  split at hd
  · cases hd; exact ⟨rfl, rfl⟩
  · cases hd

/-! ## One step while a transfer is under way -/

/-- What the fetch hands over: an operation that brings no bytes, in the state as it was; or a frame taken out of its
channel. -/
inductive Took (s : State) : Instr → State → Prop where
  | plain {i : Instr} {u : State} (hp : u.params = s.params) (ht : u.tx = s.tx) (hr : u.rx = s.rx)
      (hd : dataBytes i = none) (ha : ackBytes i = none) : Took s i u
  | data {f : Frame} {k : Nat} {r : Half} {u : State} (hp : u.params = s.params) (hf : s.tx.out[k]? = some f)
      (ht : u.tx = { s.tx with out := s.tx.out.eraseIdx k }) (hr : u.rx = s.rx) : Took s (.rxFrameIn f r) u
  | ack {f : Frame} {k : Nat} {r : Half} {u : State} (hp : u.params = s.params) (hf : s.rx.out[k]? = some f)
      (ht : u.tx = s.tx) (hr : u.rx = { s.rx with out := s.rx.out.eraseIdx k }) : Took s (.txAckIn f r) u

/-- A step in which no operation is taken leaves everything but the queues, and those it may only shorten. -/
structure Shrunk (s t : State) : Prop where
  handed : Handed s t
  tx : t.tx.out.length ≤ s.tx.out.length
  rx : t.rx.out.length ≤ s.rx.out.length

theorem Took.handed {s u : State} {i : Instr} (h : Took s i u) : Handed s u := by
  cases h with
  | plain hp ht hr => exact .same hp ht hr
  | data hp _ ht hr => exact ⟨hp, ⟨_, fun _ hg => (List.eraseIdx_sublist _ _).subset hg, ht⟩, ⟨_, fun _ h => h, hr⟩⟩
  | ack hp _ ht hr => exact ⟨hp, ⟨_, fun _ h => h, ht⟩, ⟨_, fun _ hg => (List.eraseIdx_sublist _ _).subset hg, hr⟩⟩

/-- A data frame that arrives was in `TX_OUT`. -/
theorem Took.data_mem {s u : State} {i : Instr} (h : Took s i u) {b : Frame} (hb : dataBytes i = some b) :
    b ∈ s.tx.out := by
  cases h with
  | plain _ _ _ hd => rw [hd] at hb; cases hb
  | data _ hf => cases hb; exact List.mem_of_getElem? hf
  | ack => cases hb

/-- An ack that arrives was in `RX_OUT`. -/
theorem Took.ack_mem {s u : State} {i : Instr} (h : Took s i u) {b : Frame} (hb : ackBytes i = some b) :
    b ∈ s.rx.out := by
  cases h with
  | plain _ _ _ _ ha => rw [ha] at hb; cases hb
  | data => cases hb
  | ack _ hf => cases hb; exact List.mem_of_getElem? hf

theorem fetch_within_run {s u : State} {i : Instr} {x : Option Input} (h : fetch (s.offered x) = .run i u)
    (hw : ∀ y, x = some y → withinTransfer y = true) : Took s i u := by
  cases x with
  | none =>
    obtain ⟨hi, hu⟩ := ownStep_run h
    rcases hi with rfl | rfl <;> rcases hu with rfl | rfl <;> exact .plain rfl rfl rfl rfl rfl
  | some y =>
    have hw := hw y rfl
    simp only [State.offered, Option.toList, fetch] at h
    cases y with
    | present who c =>
      simp only [withinTransfer, Bool.and_eq_true, bne_iff_ne, ne_eq] at hw
      obtain ⟨h1, h2⟩ := takeRecord_noBytes h hw.1 hw.2
      obtain ⟨-, -, rfl⟩ := takeRecord_run h
      exact .plain rfl rfl rfl h1 h2
    | datagram e b => cases hw
    | reset => cases hw
    | forward act =>
      cases act with
      | lose =>
        simp only [takeInput, forwardStep] at h
        split at h <;> cases h
      | deliver k keep r =>
        obtain rfl : keep = false := by simpa [withinTransfer, ChannelAct.removes] using hw
        simp only [takeInput, forwardStep] at h
        split at h
        · split at h
          · cases h
          · rename_i f hf
            obtain ⟨rfl, rfl⟩ := takeRecord_forward h
            exact .data rfl hf rfl rfl
        · cases h
    | reverse act =>
      cases act with
      | lose =>
        simp only [takeInput, reverseStep] at h
        split at h <;> cases h
      | deliver k keep r =>
        obtain rfl : keep = false := by simpa [withinTransfer, ChannelAct.removes] using hw
        simp only [takeInput, reverseStep] at h
        split at h
        · split at h
          · cases h
          · rename_i f hf
            obtain ⟨rfl, rfl⟩ := takeRecord_reverse h
            exact .ack rfl hf rfl rfl
        · cases h

theorem fetch_within_idle {s t : State} {x : Option Input} (h : fetch (s.offered x) = .idle t)
    (hw : ∀ y, x = some y → withinTransfer y = true) : Shrunk s t := by
  have same : ∀ {v : State}, v.params = s.params → v.tx = s.tx → v.rx = s.rx → Shrunk s v := fun hp ht hr =>
    ⟨.same hp ht hr, by rw [ht], by rw [hr]⟩
  cases x with
  | none => rw [ownStep_idle h]; exact same rfl rfl rfl
  | some y =>
    have hw := hw y rfl
    simp only [State.offered, Option.toList, fetch] at h
    cases y with
    | present who c => exact (takeRecord_not_idle h).elim
    | datagram e b => cases hw
    | reset => cases hw
    | forward act =>
      cases act with
      | lose =>
        simp only [takeInput, forwardStep] at h
        split at h
        · cases h; exact same rfl rfl rfl
        · rename_i f q hq
          cases h
          exact ⟨⟨rfl, ⟨q, fun _ h => by rw [hq]; exact List.mem_cons_of_mem _ h, rfl⟩, ⟨_, fun _ h => h, rfl⟩⟩,
            by rw [hq]; exact Nat.le_succ _, Nat.le_refl _⟩
      | deliver k keep r =>
        simp only [takeInput, forwardStep] at h
        split at h
        · split at h
          · cases h; exact same rfl rfl rfl
          · exact (takeRecord_not_idle h).elim
        · cases h
    | reverse act =>
      cases act with
      | lose =>
        simp only [takeInput, reverseStep] at h
        split at h
        · cases h; exact same rfl rfl rfl
        · rename_i f q hq
          cases h
          exact ⟨⟨rfl, ⟨_, fun _ h => h, rfl⟩, ⟨q, fun _ h => by rw [hq]; exact List.mem_cons_of_mem _ h, rfl⟩⟩,
            Nat.le_refl _, by rw [hq]; exact Nat.le_succ _⟩
      | deliver k keep r =>
        simp only [takeInput, reverseStep] at h
        split at h
        · split at h
          · cases h; exact same rfl rfl rfl
          · exact (takeRecord_not_idle h).elim
        · cases h

/-- The inversion lemma of a run: a step takes one operation in a state the fetch hands over, or none. -/
theorem run_step {ρ : Run} (hw : ∀ n x, ρ.given n = some x → withinTransfer x = true) (n : Nat) :
    (∃ i u, fetch ((ρ.state n).offered (ρ.given n)) = .run i u ∧ Took (ρ.state n) i u ∧
      exec i u = .next (ρ.state (n + 1))) ∨
    (fetch ((ρ.state n).offered (ρ.given n)) = .idle (ρ.state (n + 1)) ∧ Shrunk (ρ.state n) (ρ.state (n + 1))) := by
  rcases step_cases (ρ.steps n) with ⟨i, u, hf, he⟩ | hf
  · exact .inl ⟨i, u, hf, fetch_within_run hf (hw n), he⟩
  · exact .inr ⟨hf, fetch_within_idle hf (hw n)⟩

/-! ## Quantities that settle -/

/-- What only grows and is bounded settles. -/
theorem settles_of_bounded {f : Nat → Nat} {b : Nat} (hm : ∀ n, f n ≤ f (n + 1)) (hb : ∀ n, f n ≤ b) :
    ∃ k, ∀ n, k ≤ n → f n = f k := by
  have mono := monotone_nat_of_le_succ hm
  by_contra hc
  push Not at hc
  have grows : ∀ v, ∃ n, v ≤ f n := by
    intro v
    induction v with
    | zero => exact ⟨0, Nat.zero_le _⟩
    | succ v ih =>
      obtain ⟨n, hn⟩ := ih
      obtain ⟨k, hk, hne⟩ := hc n
      have := mono hk
      exact ⟨k, by omega⟩
  obtain ⟨n, hn⟩ := grows (b + 1)
  have := hb n
  omega

/-- What only falls from some step on settles. -/
theorem settles_of_falling {f : Nat → Nat} {a : Nat} (hm : ∀ n, a ≤ n → f (n + 1) ≤ f n) :
    ∃ k, a ≤ k ∧ ∀ n, k ≤ n → f n = f k := by
  have anti : ∀ n, f (a + (n + 1)) ≤ f (a + n) := fun n => hm (a + n) (by omega)
  have top : ∀ n, f (a + n) ≤ f a := by
    intro n
    induction n with
    | zero => exact Nat.le_refl _
    | succ n ih => exact Nat.le_trans (anti n) ih
  obtain ⟨k, hk⟩ := settles_of_bounded (f := fun n => f a - f (a + n)) (b := f a)
    (fun n => Nat.sub_le_sub_left (anti n) _) (fun n => Nat.sub_le _ _)
  refine ⟨a + k, by omega, fun n hn => ?_⟩
  obtain ⟨j, rfl⟩ : ∃ j, n = a + j := ⟨n - a, by omega⟩
  have h1 := hk j (by omega)
  have h2 := top j
  have h3 := top k
  omega

end Sys2Proof.Machine
end

