-- ==== Sys2Proof/Laws/Stream.lean ====
section
/-! SUPPORT. The segments of a stream (20_memory.md R63): how many, how long, and that the frame the TX engine builds for a
segment carries exactly that segment's bytes. -/

namespace Sys2Proof.Machine

/-- All segments but the last are full and the last holds what is left, with as many segments as `TX_START` counts. -/
theorem segmentCount_bounds {l m : Nat} (hm : 1 ≤ m) :
    (max 1 ((l + m - 1) / m) - 1) * m ≤ l ∧ l ≤ max 1 ((l + m - 1) / m) * m ∧
      l - (max 1 ((l + m - 1) / m) - 1) * m ≤ m := by
  have h1 := Nat.div_mul_le_self (l + m - 1) m
  have h2 := Nat.lt_div_mul_add (a := l + m - 1) (b := m) (by omega)
  generalize (l + m - 1) / m = q at *
  by_cases hq : q ≤ 1
  · rw [Nat.max_eq_left hq]
    obtain rfl | rfl : q = 0 ∨ q = 1 := by omega
    · simp only [Nat.zero_mul] at *; omega
    · simp only [Nat.one_mul] at *; omega
  · rw [Nat.max_eq_right (by omega)]
    obtain ⟨k, rfl⟩ : ∃ k, q = k + 1 := ⟨q - 1, by omega⟩
    rw [Nat.add_mul] at *
    rw [Nat.add_sub_cancel]; omega

theorem streamSegment_length (stream : Frame) (m i : Nat) :
    (streamSegment stream m i).length = min m (stream.length - i * m) := by simp [streamSegment]

/-- A byte of a segment is a byte of the stream. -/
theorem streamSegment_getElem {stream : Frame} {m i j : Nat} (h : j < (streamSegment stream m i).length) :
    (streamSegment stream m i)[j]? = stream[i * m + j]? := by
  rw [streamSegment_length] at h
  rw [streamSegment, List.getElem?_take, if_pos (by omega), List.getElem?_drop]

/-- The frame a loaded TX engine builds for segment `i` (R63, R166). -/
theorem segmentFrame_stream {stream : Frame} {m : Nat} {x : TxEngine} (hm : 1 ≤ m ∧ m ≤ 65529)
    (hc : x.cfgM.toNat = m) (hl : x.len.toNat = stream.length)
    (hb : ∀ a, a < stream.length → cellRead x.buf a = stream[a]?) (hn : x.nseg.toNat = streamSegments stream m)
    {i : Nat} (hi : i < x.nseg.toNat) {f : Frame} (hf : segmentFrame x i = some f) :
    f = le16 (BitVec.ofNat 16 i) ++ le16 x.cfgSid ++ streamSegment stream m i ++
      trailer (decide (i + 1 = streamSegments stream m)) := by
  obtain ⟨p, hp, hr, rfl⟩ := (segmentFrame_eq_some_iff _ _ _).1 hf
  have hd := segmentCount_bounds (l := stream.length) hm.1
  rw [show max 1 ((stream.length + m - 1) / m) = x.nseg.toNat from hn.symm] at hd
  have hlen : segLen x i = (streamSegment stream m i).length := by
    rw [streamSegment_length]; unfold segLen; rw [hc, hl]
    split
    · have := Nat.mul_le_mul_right m (show i + 1 ≤ x.nseg.toNat - 1 by omega)
      rw [Nat.add_mul] at this; omega
    · obtain rfl : i = x.nseg.toNat - 1 := by omega
      omega
  have hseg : p = streamSegment stream m i := by
    apply List.ext_getElem?
    intro j
    by_cases hj : j < p.length
    · rw [← hr j hj, streamSegment_getElem (by omega), segOff, hc, hb]
      rw [hp, hlen, streamSegment_length] at hj; omega
    · rw [List.getElem?_eq_none (by omega), List.getElem?_eq_none (by omega)]
  subst hseg
  have hlast : decide (i = x.nseg.toNat - 1) = decide (i + 1 = streamSegments stream m) :=
    decide_eq_decide.2 (by omega)
  rw [encodeData_ok _ _ _ (by rw [streamSegment_length]; omega), hlast]

end Sys2Proof.Machine
end

