-- ==== Sys2Proof/Tests/Slice0.lean ====
section
/-! SUPPORT. The model's own tests: ill-formed terms, words of the spec, one or two steps per instruction with the results
of 95_test_vectors.md section 2, and a concrete witness for the hypotheses of every statement. -/

namespace Sys2Proof.Tests

open Sys2Proof.Machine

/-! ## Small states (95_test_vectors.md, the header's configuration) -/

/-- After reset, with 16-byte buffers and the reference channels. -/
def small : State := { State.reset with params := ⟨16, 16, false, false⟩ }

/-- "ABCDEFGHIJ". -/
def stream : Frame := [0x41, 0x42, 0x43, 0x44, 0x45, 0x46, 0x47, 0x48, 0x49, 0x4A]

/-- `{00 00 02 01 41 42 43 44 00 00}`. -/
def f0 : Frame := [0x00, 0x00, 0x02, 0x01, 0x41, 0x42, 0x43, 0x44, 0x00, 0x00]

/-- `{01 00 02 01 45 46 47 48 00 00}`. -/
def f1 : Frame := [0x01, 0x00, 0x02, 0x01, 0x45, 0x46, 0x47, 0x48, 0x00, 0x00]

/-- `{02 00 02 01 49 4A FF FF}`. -/
def f2 : Frame := [0x02, 0x00, 0x02, 0x01, 0x49, 0x4A, 0xFF, 0xFF]

/-- `{00 00 02 01}`. -/
def a0 : Frame := [0x00, 0x00, 0x02, 0x01]

/-- `{01 00 02 01}`. -/
def a1 : Frame := [0x01, 0x00, 0x02, 0x01]

/-- `{02 00 02 01}`. -/
def a2 : Frame := [0x02, 0x00, 0x02, 0x01]

/-- A TX engine configured and loaded (section 2.7's defaults). -/
def txReady : State := { small with tx := { small.tx with
  cfgM := 4, cfgW := 2, cfgTimeout := 5, cfgSid := 0x0102, len := 10, time := 7, buf := memWrite [] 0 stream } }

/-- A running transfer of the stream at a window position, the timer running with `count` while frames are in flight. -/
def txAt (base next : Half) (count : Word) : State := { txReady with tx := { txReady.tx with
  state := .active, base := base, next := next, nseg := 3
  tmrRun := decide (base ≠ next), tmrCount := if base = next then 0 else count } }

/-- A receive transfer that has accepted `e` segments of `len` bytes altogether. -/
def rxAt (e : Half) (len : Word) : State := { small with rx := { small.rx with
  state := .await, cfgM := 4, expected := e, accepted := e.setWidth 32, len := len
  buf := memWrite [] 0 (stream.take len.toNat) } }

/-- The outcome is a next state of which `p` holds. -/
def lands (o : Host.Outcome State Fault Refusal) (p : State → Bool) : Bool :=
  match o with
  | .next t => p t
  | _ => false

/-- The outcome is the model's fault. -/
def faults (o : Host.Outcome State Fault Refusal) : Bool :=
  match o with
  | .fault .txBufUnwritten => true
  | _ => false

/-- The outcome is this refusal. -/
def refuses (o : Host.Outcome State Fault Refusal) (r : Refusal) : Bool :=
  match o with
  | .refused r' => decide (r' = r)
  | _ => false

/-- The decoder gives this instruction. -/
def decodes (e : Encoded) (i : Instr) : Bool :=
  match decode e with
  | .ok j => decide (j = i)
  | .error _ => false

/-- The state with one input. -/
def given_ (s : State) (x : Input) : State := { s with inputs := [x] }

/-! ## Ill-formed terms -/

/-- A sequence of `n` zeros fits a record exactly up to 65535 bytes (R95). -/
theorem fitsRecord_replicate (n : Nat) : fitsRecord (List.replicate n 0) = decide (n ≤ 65535) := by simp [fitsRecord]

/-- A payload of `n` zeros fits a data frame exactly up to 65529 bytes (R87). -/
theorem fitsFrame_replicate (n : Nat) : fitsFrame (List.replicate n 0) = decide (n ≤ 65529) := by simp [fitsFrame]

theorem test_illFormed_encData : ¬ (Instr.encData 0 0 false (List.replicate 65536 0)).WellFormed :=
  fun h => absurd ((fitsRecord_replicate 65536).symm.trans h) (by decide)
theorem test_illFormed_decData : ¬ (Instr.decData (List.replicate 65536 0)).WellFormed :=
  fun h => absurd ((fitsRecord_replicate 65536).symm.trans h) (by decide)
theorem test_illFormed_decAck : ¬ (Instr.decAck (List.replicate 65536 0)).WellFormed :=
  fun h => absurd ((fitsRecord_replicate 65536).symm.trans h) (by decide)
theorem test_illFormed_txAckIn : ¬ (Instr.txAckIn (List.replicate 65536 0) 0).WellFormed :=
  fun h => absurd ((fitsRecord_replicate 65536).symm.trans h) (by decide)
theorem test_illFormed_rxFrameIn : ¬ (Instr.rxFrameIn (List.replicate 65536 0) 0).WellFormed :=
  fun h => absurd ((fitsRecord_replicate 65536).symm.trans h) (by decide)
theorem test_illFormed_data : ¬ (Instr.data 0 0 (List.replicate 65530 0)).WellFormed :=
  fun h => absurd ((fitsFrame_replicate 65530).symm.trans h) (by decide)
theorem test_illFormed_dataLast : ¬ (Instr.dataLast 0 0 (List.replicate 65530 0)).WellFormed :=
  fun h => absurd ((fitsFrame_replicate 65530).symm.trans h) (by decide)

/-! ## Words of the spec: one per instruction, from R86, R89, R95, R96 and 95_test_vectors.md section 3 -/

theorem test_decode_encData :
    decodes (.port { op := 0x01, seq := 0x1234, sid := 0xBEEF, last := true }) (.encData 0x1234 0xBEEF true []) := by decide
theorem test_decode_decData :
    decodes (.port { op := 0x02, frame := [0x01, 0x02, 0x03, 0x04, 0x05] }) (.decData [0x01, 0x02, 0x03, 0x04, 0x05]) := by
  decide
theorem test_decode_encAck : decodes (.port { op := 0x03, seq := 0xFFFE, sid := 0x0000 }) (.encAck 0xFFFE 0x0000) := by decide
theorem test_decode_decAck :
    decodes (.port { op := 0x04, frame := [0xFE, 0xFF, 0x00, 0x00, 0x00] }) (.decAck [0xFE, 0xFF, 0x00, 0x00, 0x00]) := by
  decide
theorem test_decode_txStart : decodes (.port { op := 0x10 }) .txStart := by decide
theorem test_decode_txSend : decodes (.port { op := 0x11 }) .txSend := by decide
theorem test_decode_txAckIn : decodes (.port { op := 0x12, frame := a1, r := 0x00FF }) (.txAckIn a1 0x00FF) := by decide
theorem test_decode_txTick : decodes (.port { op := 0x13 }) .txTick := by decide
theorem test_decode_txTimeout : decodes (.port { op := 0x14 }) .txTimeout := by decide
theorem test_decode_rxStart : decodes (.port { op := 0x20 }) .rxStart := by decide
theorem test_decode_rxFrameIn : decodes (.port { op := 0x21, frame := f2, r := 0x9000 }) (.rxFrameIn f2 0x9000) := by decide
theorem test_decode_csrRead : decodes (.port { op := 0x30, csr := 0x12 }) (.csrRead 0x12) := by decide
theorem test_decode_csrWrite : decodes (.port { op := 0x31, csr := 0x23, data := 0x00008000 }) (.csrWrite 0x23 0x8000) := by
  decide
theorem test_decode_txbufWrite :
    decodes (.port { op := 0x32, addr := 0x00000009, data := 0x0000004A }) (.txbufWrite 9 0x4A) := by decide
theorem test_decode_rxbufRead : decodes (.port { op := 0x33, addr := 0x00000009 }) (.rxbufRead 9) := by decide
theorem test_decode_statsSnapshot : decodes (.port { op := 0x34 }) .statsSnapshot := by decide
theorem test_decode_data :
    decodes (.datagram .rx [0x34, 0x12, 0xEF, 0xBE, 0x41, 0x00, 0x00]) (.data 0x1234 0xBEEF [0x41]) := by decide
theorem test_decode_dataLast :
    decodes (.datagram .rx [0x00, 0x00, 0x00, 0x00, 0xFF, 0xFF, 0xFF, 0xFF]) (.dataLast 0 0 [0xFF, 0xFF]) := by decide
theorem test_decode_ack : decodes (.datagram .tx [0x34, 0x12, 0xEF, 0xBE]) (.ack 0x1234 0xBEEF) := by decide

/-- Reserved codes at the ends of every range of R97, and a reserved trailer (R88), a short frame (R87), a long ack (R90). -/
theorem test_decode_rejects :
    ([0x00, 0x05, 0x0F, 0x15, 0x1F, 0x22, 0x2F, 0x35, 0xFF] : List Byte).all
      (fun op => match decode (.port { op := op }) with | .error (.reservedOp o) => o == op | _ => false) ∧
    decode (.datagram .rx [0x00, 0x00, 0x02, 0x01, 0x34, 0x12]) = .error (.malformed .malTrailer) ∧
    decode (.datagram .rx a0) = .error (.malformed .malShort) ∧
    decode (.datagram .tx [0x00, 0x00, 0x02, 0x01, 0x00]) = .error (.malformed .malAckLen) := ⟨by decide, rfl, rfl, rfl⟩

/-- The words of the opcode table, as the table numbers them. -/
theorem test_tableWords :
    (decodeTableWord 8 0x01).isSome ∧ decodeTableWord 8 0x10 = some .txStart ∧ decodeTableWord 8 0x34 = some .statsSnapshot ∧
    decodeTableWord 16 0x0000 = some (.data 0 0 []) ∧ decodeTableWord 16 0xFFFF = some (.dataLast 0 0 []) ∧
    decodeTableWord 16 0x3412 = none ∧ decodeTableWord 0 0 = some (.ack 0 0) ∧ decodeTableWord 8 0x05 = none := by decide

/-- Each row of the table runs as the first step after reset. -/
theorem test_firstStep :
    ([0x01, 0x02, 0x03, 0x04, 0x10, 0x11, 0x12, 0x13, 0x14, 0x20, 0x21, 0x30, 0x31, 0x33, 0x34] : List Nat).all
      (fun op => lands (step (State.reset.withFetchWord 8 op)) fun _ => true) ∧
    lands (step (State.reset.withFetchWord 16 0x0000)) (fun _ => true) ∧
    lands (step (State.reset.withFetchWord 16 0xFFFF)) (fun _ => true) ∧
    lands (step (State.reset.withFetchWord 0 0)) (fun _ => true) := by decide

/-- `TXBUF_WRITE 0` as the first step: address 0 is below every capacity (R6). -/
theorem test_firstStep_txbufWrite :
    lands (step (State.reset.withFetchWord 8 0x32)) fun t => cellRead t.tx.buf 0 == some 0 := by decide

/-! ## Steps: one or two per instruction, results from 95_test_vectors.md section 2 -/

/-- 2.1, row 3. -/
theorem test_encData_littleEndian : lands (exec (.encData 0x1234 0xBEEF true []) small) fun t =>
    t.result == some ⟨0x00, .frame [0x34, 0x12, 0xEF, 0xBE, 0xFF, 0xFF]⟩ := by decide

/-- 2.1, row 5: the sentinel is not enforced by the codec. -/
theorem test_encData_sentinel : lands (exec (.encData 0xFFFF 0xFFFF false [0xFF, 0xFF]) small) fun t =>
    t.result == some ⟨0x00, .frame [0xFF, 0xFF, 0xFF, 0xFF, 0xFF, 0xFF, 0x00, 0x00]⟩ := by decide

/-- 2.2, row 2. -/
theorem test_decData_final : lands (exec (.decData [0x01, 0x00, 0x02, 0x01, 0x45, 0x46, 0xFF, 0xFF]) small) fun t =>
    t.result == some ⟨0x00, .dataFrame ⟨1, 0x0102, true, [0x45, 0x46]⟩⟩ := by decide

/-- 2.2, the row with trailer 0x00FF. -/
theorem test_decData_trailer : lands (exec (.decData [0x00, 0x00, 0x02, 0x01, 0x41, 0xFF, 0x00]) small) fun t =>
    t.result == some ⟨0x02, .dataFrame ⟨0, 0, false, []⟩⟩ := by decide

/-- 2.3, `ENC_ACK` row 3. -/
theorem test_encAck : lands (exec (.encAck 0x1234 0xBEEF) small) fun t =>
    t.result == some ⟨0x00, .frame [0x34, 0x12, 0xEF, 0xBE]⟩ := by decide

/-- 2.3, `DEC_ACK` rows 2 and 5. -/
theorem test_decAck : lands (exec (.decAck [0xFF, 0xFF, 0x00, 0x00]) small) (fun t =>
      t.result == some ⟨0x00, .ackFrame ⟨0xFFFF, 0⟩⟩) ∧
    lands (exec (.decAck [0x00, 0x00, 0x02, 0x01, 0xFF, 0xFF]) small) (fun t =>
      t.result == some ⟨0x03, .ackFrame ⟨0, 0⟩⟩) := by decide

/-- 2.7, row 1. -/
theorem test_txStart : lands (exec .txStart txReady) fun t =>
    t.tx.state == .active && t.tx.nseg == 3 && t.tx.base == 0 && t.tx.next == 0 && t.tx.tStart == 7 := by decide

/-- 2.7, the row where the first check wins. -/
theorem test_txStart_firstCheck : lands (exec .txStart small) fun t =>
    t.tx.state == .idle && t.tx.err == 0x0101 := by decide

/-- 2.8, row 2: the timer is not touched in a non-empty window. -/
theorem test_txSend : lands (exec .txSend (txAt 0 1 3)) fun t =>
    t.tx.out == [f1] && t.tx.next == 2 && t.tx.tmrCount == 3 && t.tx.sent == 1 := by decide

/-- 2.8, the last row. -/
theorem test_txSend_unwritten :
    faults (exec .txSend { txAt 0 0 5 with tx := { (txAt 0 0 5).tx with buf := memWrite [] 0 (stream.take 2) } }) := by
  decide

/-- 2.9, row 4: a duplicate ack restarts the timer. -/
theorem test_txAckIn_duplicate : lands (exec (.txAckIn a0 0) (txAt 1 2 3)) fun t =>
    t.tx.base == 1 && t.tx.tmrRun && t.tx.tmrCount == 5 := by decide

/-- 2.9, row 9: the completing ack. -/
theorem test_txAckIn_completes : lands (exec (.txAckIn a2 0) (txAt 2 3 5)) fun t =>
    t.tx.base == 3 && !t.tx.tmrRun && t.tx.tmrCount == 0 && t.tx.state == .done && t.tx.tEnd == 7 := by decide

/-- 2.10, row 3: a pending expiry stays pending. -/
theorem test_txTick_pending : lands (exec .txTick (txAt 0 1 0)) fun t => t.tx.tmrCount == 0 && t.tx.time == 8 := by decide

/-- 2.10, row 5: the time wraps. -/
theorem test_txTick_wraps :
    lands (exec .txTick { small with tx := { small.tx with time := 0xFFFFFFFF } }) fun t => t.tx.time == 0 := by decide

/-- 2.10, the row with base 1, next 3: the final frame is marked. -/
theorem test_txTimeout_final : lands (exec .txTimeout (txAt 1 3 0)) fun t =>
    t.tx.out == [f1, f2] && t.tx.retx == 2 && t.tx.sent == 2 && t.tx.tmrCount == 5 := by decide

/-- 2.10, the row with count 1: not enabled. -/
theorem test_txTimeout_notEnabled : lands (exec .txTimeout (txAt 0 2 1)) fun t => t == txAt 0 2 1 := by decide

/-- 2.5, row 2: from `DONE`. -/
theorem test_rxStart : lands (exec .rxStart { rxAt 3 10 with rx := { (rxAt 3 10).rx with state := .done } }) fun t =>
    t.rx.state == .await && t.rx.len == 0 && t.rx.expected == 0 && t.rx.accepted == 0 := by decide

/-- 2.5, rows 3 and 5. -/
theorem test_rxStart_errors : lands (exec .rxStart (rxAt 1 4)) (fun t => t.rx.err == 0x0102 && t.rx.len == 4) ∧
    lands (exec .rxStart { small with rx := { small.rx with cfgM := 65530 } })
      (fun t => t.rx.err == 0x0101 && t.rx.state == .idle) := by decide

/-- 2.6, row 6: the final frame. -/
theorem test_rxFrameIn_final : lands (exec (.rxFrameIn f2 0) (rxAt 2 8)) fun t =>
    t.rx.out == [a2] && t.rx.len == 10 && t.rx.expected == 3 && t.rx.accepted == 3 && t.rx.state == .done &&
      cellRead t.rx.buf 9 == some 0x4A := by decide

/-- 2.6, the row with e = 0xFFFF: never accepted. -/
theorem test_rxFrameIn_sentinel : lands (exec (.rxFrameIn [0xFF, 0xFF, 0x02, 0x01, 0x00, 0x00] 0) (rxAt 0xFFFF 0)) fun t =>
    t.rx.out == [[0xFE, 0xFF, 0x02, 0x01]] && t.rx.expected == 0xFFFF := by decide

/-- 2.11, rows 1, 3 and 5. -/
theorem test_csrRead : lands (exec (.csrRead 0x09) small) (fun t => t.result == some ⟨0, .data 0x0000FFFF⟩) ∧
    lands (exec (.csrRead 0x01) (txAt 0 1 5)) (fun t => t.result == some ⟨0, .data 0x00000005⟩) ∧
    lands (exec (.csrRead 0x3F) (txAt 0 1 5)) (fun t => t.result == some ⟨0, .data 0⟩) := by decide

/-- 2.11: the register's width, the reserved bits. -/
theorem test_csrWrite : lands (exec (.csrWrite 0x04 0x00010002) small) (fun t => t.tx.cfgW == 0x0002) ∧
    lands (exec (.csrWrite 0x00 0xFFFFFFFF) small) (fun t => t.tx.ctrl == 0x00000001) := by decide

/-- 2.11: a configuration write while running, a clear, a read-only register. -/
theorem test_csrWrite_running :
    lands (exec (.csrWrite 0x03 8) (txAt 0 1 5)) (fun t => t.tx.cfgM == 4 && t.tx.err == 0x0202) ∧
    lands (exec (.csrWrite 0x02 0x12345678) { small with tx := { small.tx with err := 0x0201 } })
      (fun t => t.tx.err == 0) ∧
    lands (exec (.csrWrite 0x09 5) small) (fun t => t.tx.base == 0xFFFF) := by decide

/-- 2.11: the last cell, and the first address beyond it. -/
theorem test_txbufWrite : lands (exec (.txbufWrite 15 0x1FF) small) (fun t => cellRead t.tx.buf 15 == some 0xFF) ∧
    lands (exec (.txbufWrite 16 0x41) small) (fun t => t.tx.buf == [] && t.tx.err == 0x0104) := by decide

/-- 2.11: a write while running. -/
theorem test_txbufWrite_running : lands (exec (.txbufWrite 0 0x5A) (txAt 0 0 5)) fun t =>
    cellRead t.tx.buf 0 == some 0x41 && t.tx.err == 0x0302 := by decide

/-- 2.11: below and at `RX_LEN`; the byte returned beyond it is not tested. -/
theorem test_rxbufRead : lands (exec (.rxbufRead 9) (rxAt 3 10)) (fun t => t.result == some ⟨0, .data 0x4A⟩) ∧
    lands (exec (.rxbufRead 10) (rxAt 3 10)) (fun t => t.rx.err == 0x0204) := by decide

/-- R71: repeated with no other step between, an `RXBUF_READ` beyond `RX_LEN` returns the same byte and changes nothing. -/
theorem test_rxbufRead_again :
    (let s := { rxAt 3 10 with
      result := some ⟨0, .anyData 10 0x5A⟩
      rx := { (rxAt 3 10).rx with err := 0x0204 } }
     lands (exec (.rxbufRead 10) s) fun t => t == s) := by decide

/-- R71, R101: a channel that has no frame to lose has taken no step, so the byte of the read before it is still held. -/
theorem test_emptyLoss_keepsByte :
    (let s := { rxAt 3 10 with result := some ⟨0, .anyData 10 0x5A⟩ }
     lands (step (given_ s (.forward .lose))) (fun t => heldByte t 10 == some 0x5A) ∧
     lands (step (given_ s (.reverse .lose))) (fun t => heldByte t 10 == some 0x5A)) := by decide

/-- R215: six values of one state. -/
theorem test_statsSnapshot : lands (exec .statsSnapshot txReady) fun t =>
    t.result == some ⟨0, .stats 0 0 0 0 0 7⟩ := by decide

/-- 2.6, row 1, as a datagram: with zero loss every draw passes. -/
theorem test_data : lands (exec (.data 0 0x0102 [0x41, 0x42, 0x43, 0x44]) (rxAt 0 0)) fun t =>
    t.rx.out == [a0] && t.rx.len == 4 && t.rx.expected == 1 && t.rx.state == .await := by decide

/-- 2.6, row 6, as a datagram. -/
theorem test_dataLast : lands (exec (.dataLast 2 0x0102 [0x49, 0x4A]) (rxAt 2 8)) fun t =>
    t.rx.out == [a2] && t.rx.state == .done := by decide

/-- 2.9, row 2, as a datagram: cumulative. -/
theorem test_ack : lands (exec (.ack 1 0x0102) (txAt 0 2 3)) fun t =>
    t.tx.base == 2 && !t.tx.tmrRun && t.tx.tmrCount == 0 := by decide

/-- 2.11, the last two rows: refused. -/
theorem test_refusals :
    refuses (step (given_ small (.present .host { op := 0x35 }))) (.reservedOp 0x35) ∧
    refuses (step (given_ small (.present .host { op := 0x13 }))) (.wrongAgent .host 0x13) := by decide

/-- 2.12, the last row: `RESET` in the middle of a transfer. -/
theorem test_reset : lands (step (given_ (txAt 0 2 3) .reset)) fun t =>
    t.tx == TxEngine.reset && t.rx == RxEngine.reset && !lineTxErr t && !lineTxDone t := by decide

/-- P1 step 8: the forward channel delivers the head of `TX_OUT`. -/
theorem test_forwardDelivers :
    lands (step { rxAt 0 0 with tx := { small.tx with out := [f0] }, inputs := [.forward (.deliver 0 false 0)] }) fun t =>
      t.tx.out == [] && t.rx.out == [a0] && t.rx.expected == 1 := by decide

/-- R76: without `CH_DUP` and `CH_REORDER` a channel neither keeps nor overtakes. -/
theorem test_channelForbids :
    refuses (step (given_ small (.forward (.deliver 1 false 0)))) .channelForbids ∧
    refuses (step (given_ small (.reverse (.deliver 0 true 0)))) .channelForbids := by decide

/-! ## Witnesses: states and operands that meet the hypotheses of each statement, clause by clause, at the ends of ranges -/

/-- `DecodeOfEncode`, `CodecRoundTrips` (a), `EncDataResult`, `DataFrameArrives`: the longest operands, and the shortest that is too long. -/
theorem test_wellFormed_longest : (Instr.encData 0 0 true (List.replicate 65535 0)).WellFormed ∧
    (Instr.data 0 0 (List.replicate 65529 0)).WellFormed ∧ (List.replicate 65529 (0 : Byte)).length ≤ 65529 ∧
    65529 < (List.replicate 65530 (0 : Byte)).length :=
  ⟨(fitsRecord_replicate 65535).trans (by decide), (fitsFrame_replicate 65529).trans (by decide),
    by rw [List.length_replicate], by rw [List.length_replicate]; decide⟩

/-- `DatagramEncodingUnique`. -/
theorem test_datagramEncodingUnique_premises : decode (.datagram .rx f2) = .ok (.dataLast 2 0x0102 [0x49, 0x4A]) ∧
    decode (.datagram .tx a1) = .ok (.ack 1 0x0102) := ⟨rfl, rfl⟩

/-- `CodecRoundTrips` (b) and (d). -/
theorem test_codecRoundTrips_premises :
    (∃ t, exec (.decData f2) small = .next t ∧ f2.length ≤ 65535 ∧
      t.result = some ⟨0, .dataFrame ⟨2, 0x0102, true, [0x49, 0x4A]⟩⟩) ∧ a0.length = 4 :=
  ⟨⟨_, rfl, by decide, rfl⟩, rfl⟩

/-- `StepRunsRecord`: from the host, and from the TX engine itself. -/
theorem test_stepRunsRecord_premises :
    (given_ small (.present .host { op := 0x10 })).inputs = .present .host { op := 0x10 } :: [] ∧
    decode (.port { op := 0x10 }) = .ok .txStart ∧ issuer .txStart = .host ∧
    decode (.port { op := 0x11 }) = .ok .txSend ∧ issuer .txSend = .txEngine := ⟨rfl, rfl, rfl, rfl, rfl⟩

/-- `StepRunsDatagram`: both engines, both clauses. -/
theorem test_stepRunsDatagram_premises :
    (given_ small (.datagram .rx f2)).inputs = .datagram .rx f2 :: [] ∧
    decode (.datagram .rx f2) = .ok (.dataLast 2 0x0102 [0x49, 0x4A]) ∧
    decode (.datagram .tx a0) = .ok (.ack 0 0x0102) ∧
    decode (.datagram .rx a0) = .error (.malformed .malShort) ∧
    decode (.datagram .tx f0) = .error (.malformed .malAckLen) := ⟨rfl, rfl, rfl, rfl, rfl⟩

/-- `ReservedOpRefused`: both ends of every range. -/
theorem test_reservedOpRefused_premises :
    (given_ small (.present .tickSource { op := 0x00 })).inputs = .present .tickSource { op := 0x00 } :: [] ∧
    ∀ op ∈ ([0x00, 0x05, 0x0F, 0x15, 0x1F, 0x22, 0x2F, 0x35, 0xFF] : List Byte),
      (op = 0x00 ∨ (0x05 ≤ op.toNat ∧ op.toNat ≤ 0x0F) ∨ (0x15 ≤ op.toNat ∧ op.toNat ≤ 0x1F) ∨
        (0x22 ≤ op.toNat ∧ op.toNat ≤ 0x2F) ∨ 0x35 ≤ op.toNat) := ⟨rfl, by decide⟩

/-- `WrongAgentRefused`: each clause. -/
theorem test_wrongAgentRefused_premises :
    (given_ small (.present .host { op := 0x14 })).inputs = .present .host { op := 0x14 } :: [] ∧
    (∀ c ∈ ([(0x14, .host), (0x12, .forwardChannel), (0x13, .host), (0x21, .reverseChannel), (0x10, .txEngine),
        (0x34, .tickSource)] : List (Byte × Agent)),
      (∃ i, decode (.port { op := c.1 }) = .ok i) ∧
      ((c.1 ∈ [0x11, 0x14] ∧ c.2 ≠ .txEngine) ∨ (c.1 = 0x12 ∧ c.2 ≠ .reverseChannel) ∨
        (c.1 = 0x13 ∧ c.2 ≠ .tickSource) ∨ (c.1 = 0x21 ∧ c.2 ≠ .forwardChannel) ∨
        (c.1 ∉ [0x11, 0x12, 0x13, 0x14, 0x21] ∧ c.2 ≠ .host))) := by
  refine ⟨rfl, ?_⟩
  simp only [List.forall_mem_cons, List.not_mem_nil, false_implies, implies_true, and_true]
  exact ⟨⟨⟨_, rfl⟩, by decide⟩, ⟨⟨_, rfl⟩, by decide⟩, ⟨⟨_, rfl⟩, by decide⟩, ⟨⟨_, rfl⟩, by decide⟩,
    ⟨⟨_, rfl⟩, by decide⟩, ⟨⟨_, rfl⟩, by decide⟩⟩

/-- `DecDataResult`: the longest short sequence, the shortest frame, and a frame. -/
theorem test_decDataResult_premises : ([0x00, 0x00, 0x02, 0x01, 0x00] : Frame).length < 6 ∧
    ([0x34, 0x12, 0xEF, 0xBE, 0xFF, 0xFF] : Frame) = [0x34, 0x12, 0xEF, 0xBE] ++ [] ++ [0xFF, 0xFF] ∧
    f0 = [0x00, 0x00, 0x02, 0x01] ++ [0x41, 0x42, 0x43, 0x44] ++ [0x00, 0x00] := ⟨by decide, rfl, rfl⟩

/-- `AckCodecResults`: lengths 3 and 5. -/
theorem test_ackCodecResults_premises : ([0x00, 0x00, 0x02] : Frame).length ≠ 4 ∧
    ([0x00, 0x00, 0x02, 0x01, 0x00] : Frame).length ≠ 4 := by decide

/-- A configured TX engine with other values of the checked registers. -/
def txWith (cap : Nat) (m w : Half) (t len : Word) : State := { txReady with
  params := ⟨cap, 16, false, false⟩
  tx := { txReady.tx with cfgM := m, cfgW := w, cfgTimeout := t, len := len } }

/-- `TxStartBegins`: the default, an empty stream, the most segments, the longest segment. -/
theorem test_txStartBegins_premises :
    ∀ s ∈ [txReady, txWith 16 4 1 1 0, txWith 65535 1 65535 0xFFFFFFFF 65535, txWith 16 65529 1 1 16],
      s.tx.state ≠ .active ∧ 1 ≤ s.tx.cfgM.toNat ∧ s.tx.cfgM.toNat ≤ 65529 ∧ 1 ≤ s.tx.cfgW.toNat ∧
      1 ≤ s.tx.cfgTimeout.toNat ∧ s.tx.len.toNat ≤ s.params.txCap ∧
      (s.tx.len.toNat + s.tx.cfgM.toNat - 1) / s.tx.cfgM.toNat ≤ 65535 := by decide

/-- `TxStartRefusals`: each check, at the ends of its range. -/
theorem test_txStartRefusals_premises :
    (txAt 0 0 5).tx.state = .active ∧
    ((txWith 16 0 2 5 10).tx.state ≠ .active ∧ (txWith 16 0 2 5 10).tx.cfgM = 0 ∧
      65529 < (txWith 16 65530 2 5 10).tx.cfgM.toNat) ∧
    ((txWith 16 4 0 5 10).tx.cfgW = 0 ∧ 1 ≤ (txWith 16 4 0 5 10).tx.cfgM.toNat ∧
      (txWith 16 4 0 5 10).tx.cfgM.toNat ≤ 65529) ∧
    ((txWith 16 4 2 0 10).tx.cfgW ≠ 0 ∧ (txWith 16 4 2 0 10).tx.cfgTimeout = 0) ∧
    ((txWith 16 4 2 5 17).tx.cfgTimeout ≠ 0 ∧ (txWith 16 4 2 5 17).params.txCap < (txWith 16 4 2 5 17).tx.len.toNat) ∧
    ((txWith 65536 1 2 5 65536).tx.len.toNat ≤ (txWith 65536 1 2 5 65536).params.txCap ∧
      65535 < ((txWith 65536 1 2 5 65536).tx.len.toNat + (txWith 65536 1 2 5 65536).tx.cfgM.toNat - 1) /
        (txWith 65536 1 2 5 65536).tx.cfgM.toNat) := by decide

/-- `TxSendEffect`: a full segment and the final one, and the first unwritten cell. -/
theorem test_txSendEffect_premises :
    (∀ s ∈ [txAt 0 0 5, txAt 0 1 3, txAt 2 2 5], s.tx.state = .active ∧ s.tx.next.toNat < s.tx.base.toNat + s.tx.cfgW.toNat ∧
      s.tx.next.toNat < s.tx.nseg.toNat) ∧
    (∀ c ∈ [(txAt 0 1 3, ([0x45, 0x46, 0x47, 0x48] : Frame)), (txAt 2 2 5, [0x49, 0x4A])],
      c.2.length = segLen c.1.tx c.1.tx.next.toNat ∧
      ∀ j, j < c.2.length → cellRead c.1.tx.buf (segOff c.1.tx c.1.tx.next.toNat + j) = c.2[j]?) ∧
    (let s := { txAt 0 0 5 with tx := { (txAt 0 0 5).tx with buf := memWrite [] 0 (stream.take 2) } }
     2 < segLen s.tx s.tx.next.toNat ∧ cellRead s.tx.buf (segOff s.tx s.tx.next.toNat + 2) = none) := by decide

/-- `TxTimeoutEffect`: a window of two with the final frame, and an unwritten cell in it. -/
theorem test_txTimeoutEffect_premises :
    ((txAt 1 3 0).tx.state = .active ∧ (txAt 1 3 0).tx.tmrRun = true ∧ (txAt 1 3 0).tx.tmrCount = 0) ∧
    ([f1, f2].length = (txAt 1 3 0).tx.next.toNat - (txAt 1 3 0).tx.base.toNat ∧
      ∀ j, j < [f1, f2].length → ∃ p : Frame, p.length = segLen (txAt 1 3 0).tx ((txAt 1 3 0).tx.base.toNat + j) ∧
        (∀ l, l < p.length →
          cellRead (txAt 1 3 0).tx.buf (segOff (txAt 1 3 0).tx ((txAt 1 3 0).tx.base.toNat + j) + l) = p[l]?) ∧
        [f1, f2][j]? = some (encodeData (BitVec.ofNat 16 ((txAt 1 3 0).tx.base.toNat + j)) (txAt 1 3 0).tx.cfgSid
          (decide ((txAt 1 3 0).tx.base.toNat + j = (txAt 1 3 0).tx.nseg.toNat - 1)) p).2) ∧
    (let s := { txAt 0 2 0 with tx := { (txAt 0 2 0).tx with buf := memWrite [] 0 (stream.take 7) } }
     ∃ i j, s.tx.base.toNat ≤ i ∧ i < s.tx.next.toNat ∧ j < segLen s.tx i ∧
      cellRead s.tx.buf (segOff s.tx i + j) = none) := by
  refine ⟨by decide, ⟨by decide, fun j hj => ?_⟩, 1, 3, by decide⟩
  match j, hj with
  | 0, _ => exact ⟨[0x45, 0x46, 0x47, 0x48], by decide⟩
  | 1, _ => exact ⟨[0x49, 0x4A], by decide⟩

/-- `InternalOperationsWait`: each reason. -/
theorem test_internalOperationsWait_premises :
    txReady.tx.state ≠ .active ∧
    (txAt 0 2 5).tx.base.toNat + (txAt 0 2 5).tx.cfgW.toNat ≤ (txAt 0 2 5).tx.next.toNat ∧
    (txAt 2 3 5).tx.nseg.toNat ≤ (txAt 2 3 5).tx.next.toNat ∧
    (txAt 0 0 5).tx.tmrRun = false ∧ (txAt 0 2 1).tx.tmrCount ≠ 0 := by decide

/-- `AckAdvancesWindow`, `AckFrameArrives`: a duplicate, a cumulative and the completing ack, with loss off and with a draw
that passes. -/
theorem test_ackAdvancesWindow_premises :
    (∀ c ∈ [(txAt 1 2 3, (0 : Byte)), (txAt 0 2 3, 1), (txAt 2 3 5, 2)],
      c.1.tx.state = .active ∧ c.1.tx.ctrl.getLsbD 0 = false ∧
      ((0x00 : Byte) ++ c.2).toNat < c.1.tx.next.toNat ∧ c.1.tx.base.toNat ≤ ((0x00 : Byte) ++ c.2).toNat + 1) ∧
    ({ (txAt 0 2 3).tx with ctrl := 1, cfgLoss := 0x0100 } : TxEngine).cfgLoss.toNat ≤ (0x0100 : Half).toNat := by decide

/-- `AckIgnored`: each reason. -/
theorem test_ackIgnored_premises :
    txReady.tx.state ≠ .active ∧
    (let x : TxEngine := { (txAt 0 2 3).tx with ctrl := 1, cfgLoss := 0x0100 }
     x.ctrl.getLsbD 0 = true ∧ (0x00FF : Half).toNat < x.cfgLoss.toNat) ∧
    f0.length ≠ 4 ∧ a2 = [0x02, 0x00, 0x02, 0x01] ∧
    (txAt 0 2 3).tx.next.toNat ≤ ((0x00 : Byte) ++ (0x02 : Byte)).toNat ∧
    (txAt 2 3 5).tx.base.toNat > ((0x00 : Byte) ++ (0x00 : Byte)).toNat + 1 := by decide

/-- `RxStartEffect`: each clause, the ends of the range. -/
theorem test_rxStartEffect_premises :
    (let s := { small with rx := { small.rx with cfgM := 65529 } }
     s.rx.state ≠ .await ∧ 1 ≤ s.rx.cfgM.toNat ∧ s.rx.cfgM.toNat ≤ 65529) ∧
    (rxAt 0 0).rx.state = .await ∧ (small.rx.state ≠ .await ∧ small.rx.cfgM = 0) ∧
    65529 < ({ small.rx with cfgM := 65530 } : RxEngine).cfgM.toNat := by decide

/-- `FrameAccepted`, `DataFrameArrives` (its first clause: `test_wellFormed_longest`): a payload of exactly `RX_CFG_M` bytes that fills `RXBUF`, an empty payload. -/
theorem test_frameAccepted_premises :
    (∀ c ∈ [(rxAt 3 12, ([0x41, 0x42, 0x43, 0x44] : Frame)), (rxAt 0xFFFE 16, [])],
      c.1.rx.state = .await ∧ c.1.rx.cfgLoss.toNat ≤ (0 : Half).toNat ∧ c.2.length ≤ c.1.rx.cfgM.toNat ∧
      c.1.rx.expected ≠ 0xFFFF ∧ c.1.rx.len.toNat + c.2.length ≤ c.1.params.rxCap) ∧
    (rxAt 3 12).rx.cfgLoss = 0 := by decide

/-- `FrameMismatched`: a duplicate, a gap, the sentinel. -/
theorem test_frameMismatched_premises :
    (rxAt 2 8).rx.state = .await ∧ (rxAt 2 8).rx.cfgLoss.toNat ≤ (0 : Half).toNat ∧
    ([0x41] : Frame).length ≤ (rxAt 2 8).rx.cfgM.toNat ∧ (0 : Half) ≠ (rxAt 2 8).rx.expected ∧
    (5 : Half) ≠ (rxAt 2 8).rx.expected ∧ (rxAt 0xFFFF 0).rx.expected = 0xFFFF := by decide

/-- `FrameDropped`: each reason. -/
theorem test_frameDropped_premises :
    small.rx.state ≠ .await ∧ (0x7FFF : Half).toNat < ({ (rxAt 0 0).rx with cfgLoss := 0x8000 } : RxEngine).cfgLoss.toNat ∧
    a0.length < 6 ∧
    ([0x00, 0x00, 0x02, 0x01, 0x41, 0x12, 0x34] : Frame) = [0x00, 0x00, 0x02, 0x01] ++ [0x41] ++ [0x12, 0x34] ∧
    ((0x12 : Byte) ≠ 0x00 ∧ (0x12 : Byte) ≠ 0xFF) ∧
    (rxAt 0 0).rx.cfgM.toNat < ([0x41, 0x42, 0x43, 0x44, 0x45] : Frame).length := by decide

/-- `FrameOverflows`: one byte too many. -/
theorem test_frameOverflows_premises :
    (rxAt 3 13).rx.state = .await ∧ (rxAt 3 13).rx.cfgLoss.toNat ≤ (0 : Half).toNat ∧
    ([0x41, 0x42, 0x43, 0x44] : Frame).length ≤ (rxAt 3 13).rx.cfgM.toNat ∧ (rxAt 3 13).rx.expected = 3 ∧
    (rxAt 3 13).rx.expected ≠ 0xFFFF ∧
    (rxAt 3 13).params.rxCap < (rxAt 3 13).rx.len.toNat + ([0x41, 0x42, 0x43, 0x44] : Frame).length := by decide

/-- `RedeliveryIdempotent`: a duplicate that is not dropped, and a frame accepted that goes on. -/
theorem test_redeliveryIdempotent_premises :
    ((1 : Half).toNat < (rxAt 2 8).rx.expected.toNat ∧ (rxAt 2 8).rx.state = .await ∧
      (rxAt 2 8).rx.cfgLoss.toNat ≤ (0 : Half).toNat ∧
      ([0x45, 0x46, 0x47, 0x48] : Frame).length ≤ (rxAt 2 8).rx.cfgM.toNat) ∧
    ∃ t, exec (.rxFrameIn f0 0) (rxAt 0 0) = .next t ∧ t.rx.state = .await ∧
      t.rx.expected ≠ (rxAt 0 0).rx.expected ∧ (rxAt 0 0).rx.cfgLoss.toNat ≤ (0 : Half).toNat :=
  ⟨by decide, _, rfl, by decide, by decide, by decide⟩

/-- `CsrWriteConfiguration`, `CsrWriteOthers`: an index of each kind. -/
theorem test_csrWrite_premises :
    ((0x08 : BitVec 6) = 0x08 ∧ (0x23 : BitVec 6) = 0x23) ∧ txReady.tx.state ≠ .active ∧ (txAt 0 0 5).tx.state = .active ∧
    small.rx.state ≠ .await ∧ (rxAt 0 0).rx.state = .await ∧
    ∀ c ∈ ([0x01, 0x09, 0x11, 0x12, 0x1F, 0x20, 0x24, 0x26, 0x27, 0x3F] : List (BitVec 6)),
      c.toNat ∉ [0x00, 0x02, 0x03, 0x04, 0x05, 0x06, 0x07, 0x08, 0x21, 0x22, 0x23] := by decide

/-- `TxbufWriteEffect`: each clause, the last cell and the first address beyond. -/
theorem test_txbufWriteEffect_premises : (txAt 0 0 5).tx.state = .active ∧ small.tx.state ≠ .active ∧
    small.params.txCap ≤ (16 : Word).toNat ∧ (15 : Word).toNat < small.params.txCap := by decide

/-- The reassembly invariant of a receive transfer in progress. -/
theorem rxAt_rxInv : RxInv (rxAt 2 8) :=
  ⟨by decide, by decide, by decide⟩

/-- `RxbufReadEffect`: the last byte held and the first address beyond. -/
theorem test_rxbufReadEffect_premises : RxInv (rxAt 2 8) ∧ (7 : Word).toNat < (rxAt 2 8).rx.len.toNat ∧
    (rxAt 2 8).rx.len.toNat ≤ (8 : Word).toNat ∧ (∃ t, exec (.rxbufRead 8) (rxAt 2 8) = .next t) ∧
    (∃ t, exec (.csrRead 0x25) (rxAt 2 8) = .next t) ∧ ∃ t, exec .statsSnapshot (rxAt 2 8) = .next t :=
  ⟨rxAt_rxInv, by decide, by decide, ⟨_, rfl⟩, ⟨_, rfl⟩, _, rfl⟩

/-- `ResetInput`. -/
theorem test_resetInput_premises : (given_ (txAt 0 2 3) .reset).inputs = .reset :: [] := rfl

/-- `ChannelSteps`: on each channel a loss, also from an empty queue; the head and an entry beyond it, taken and kept, where
the parameters allow it and where they do not; the first entry that is not there; a frame of the longest length and one too
long. -/
theorem test_channelSteps_premises :
    (given_ small (.forward .lose)).inputs = .forward .lose :: [] ∧
    (given_ small (.reverse .lose)).inputs = .reverse .lose :: [] ∧
    (given_ small (.forward (.deliver 1 true 7))).inputs = .forward (.deliver 1 true 7) :: [] ∧
    (given_ small (.reverse (.deliver 1 true 7))).inputs = .reverse (.deliver 1 true 7) :: [] ∧
    small.params.chReorder = false ∧ small.params.chDup = false ∧
    (∀ p ∈ [Params.mk 16 16 true false, Params.mk 16 16 false true, Params.mk 16 16 true true],
      (p.chReorder = true ∨ p.chReorder = false) ∧ (p.chDup = true ∨ p.chDup = false)) ∧
    (small.tx.out = [] ∧ small.rx.out = []) ∧
    (let q : List Frame := [f0, f1]
     q[0]? = some f0 ∧ q[1]? = some f1 ∧ q.length ≤ 2 ∧ f0.length ≤ 65535) ∧
    (List.replicate 65535 (0 : Byte)).length ≤ 65535 ∧ 65535 < (List.replicate 65536 (0 : Byte)).length :=
  ⟨rfl, rfl, rfl, rfl, rfl, rfl, by decide, ⟨rfl, rfl⟩, by decide, by rw [List.length_replicate], by rw [List.length_replicate]; decide⟩

/-- R76 (d) and (e): with the parameters on, an entry beyond the head is delivered, and kept. -/
theorem test_channelKeepsAndOvertakes :
    lands (step { rxAt 1 4 with
        params := ⟨16, 16, true, true⟩
        tx := { small.tx with out := [f0, f1] }
        inputs := [.forward (.deliver 1 true 0)] }) fun t =>
      t.tx.out == [f0, f1] && t.rx.out == [a1] && t.rx.expected == 2 := by decide

/-- `OwnSteps`: each combination of the guards. -/
theorem test_ownSteps_premises :
    (txAt 0 0 5).inputs = [] ∧
    (txSendEnabled (txAt 0 0 5).tx = true ∧ txTimeoutEnabled (txAt 0 0 5).tx = false) ∧
    (txSendEnabled (txAt 0 2 0).tx = false ∧ txTimeoutEnabled (txAt 0 2 0).tx = true) ∧
    (txSendEnabled (txAt 0 1 0).tx = true ∧ txTimeoutEnabled (txAt 0 1 0).tx = true) ∧
    (txSendEnabled txReady.tx = false ∧ txTimeoutEnabled txReady.tx = false) := by decide

/-- The window and timer invariants of a running transfer with one frame in flight. -/
theorem txAt_txInv : TxInv (txAt 0 1 3).tx :=
  ⟨fun _ => by decide, fun _ => by decide, fun _ => by decide, fun _ => by decide, fun h => absurd h (by decide)⟩

/-- Its configuration. -/
theorem txAt_transferInv : TransferInv (txAt 0 1 3) := ⟨fun _ => by decide, fun _ => by decide⟩

/-- `LoadedStreamNeverFaults`, `StepKeepsWindow`: a running transfer with every byte written, and a step from it. -/
theorem test_loadedStreamNeverFaults_premises : TxInv (txAt 0 1 3).tx ∧ TransferInv (txAt 0 1 3) ∧
    (∀ a, a < (txAt 0 1 3).tx.len.toNat → cellRead (txAt 0 1 3).tx.buf a ≠ none) ∧
    ∃ t, step (txAt 0 1 3) = .next t := ⟨txAt_txInv, txAt_transferInv, by decide, _, rfl⟩

/-- `EnginesDisjoint`, `QueuesOnlyGrow`, `AckBounds`: an operation that moves the TX engine, one that moves the RX engine
and acknowledges. -/
theorem test_engineMoves_premises : (∃ t, exec .txSend (txAt 0 0 5) = .next t ∧ t.tx ≠ (txAt 0 0 5).tx) ∧
    (∃ t, exec (.rxFrameIn f0 0) (rxAt 0 0) = .next t ∧ t.rx ≠ (rxAt 0 0).rx ∧ t.rx.out ≠ (rxAt 0 0).rx.out) :=
  ⟨⟨_, rfl, by decide⟩, ⟨_, rfl, by decide, by decide⟩⟩

/-- `EnginesDoNotSeeEachOther`: two states with the same TX engine and different RX engines, and the other way round. -/
theorem test_enginesDoNotSeeEachOther_premises :
    (({ txAt 0 0 5 with rx := (rxAt 2 8).rx } : State).tx = (txAt 0 0 5).tx ∧ (rxAt 2 8).rx ≠ (txAt 0 0 5).rx ∧
      ∃ t, exec .txSend (txAt 0 0 5) = .next t) ∧
    (({ rxAt 2 8 with tx := (txAt 0 0 5).tx } : State).rx = (rxAt 2 8).rx ∧ (txAt 0 0 5).tx ≠ (rxAt 2 8).tx ∧
      (∃ t, exec (.rxFrameIn f2 0) (rxAt 2 8) = .next t) ∧
      ∃ t, exec (.rxFrameIn f2 0) { rxAt 2 8 with tx := (txAt 0 0 5).tx } = .next t) :=
  ⟨⟨rfl, by decide, _, rfl⟩, rfl, by decide, ⟨_, rfl⟩, _, rfl⟩

/-- `FirstErrorKept`: an operation that raises an error while one is recorded, in each engine. -/
theorem test_firstErrorKept_premises :
    (∃ t, exec .txStart { txAt 0 0 5 with tx := { (txAt 0 0 5).tx with err := 0x0201 } } = .next t) ∧
    (∃ t, exec .rxStart { rxAt 0 0 with rx := { (rxAt 0 0).rx with err := 0x0003 } } = .next t) ∧
    ((0x0201 : Half) ≠ 0 ∧ (0x0003 : Half) ≠ 0) := ⟨⟨_, rfl⟩, ⟨_, rfl⟩, by decide⟩

/-- `RunningConfigurationFixed`, `WindowMonotonic`, `ReassemblyMonotonic`: running transfers, and operations that go on. -/
theorem test_runningTransfer_premises : (txAt 0 1 3).tx.state = .active ∧ (rxAt 2 8).rx.state = .await ∧
    (rxAt 2 8).params.wf ∧ (∃ t, exec (.csrWrite 0x03 8) (txAt 0 1 3) = .next t) ∧
    (∃ t, exec .txSend (txAt 0 1 3) = .next t ∧ t.tx.next ≠ (txAt 0 1 3).tx.next) ∧
    (∃ t, exec (.txAckIn a0 0) (txAt 0 1 3) = .next t ∧ t.tx.base ≠ (txAt 0 1 3).tx.base) ∧
    (∃ t, exec (.rxFrameIn f2 0) (rxAt 2 8) = .next t) :=
  ⟨rfl, rfl, by decide, ⟨_, rfl⟩, ⟨_, rfl, by decide⟩, ⟨_, rfl, by decide⟩, ⟨_, rfl⟩⟩

/-- `StateTransitions`: each of the four transitions. -/
theorem test_stateTransitions_premises :
    (∃ t, exec .txStart txReady = .next t ∧ t.tx.state ≠ txReady.tx.state) ∧
    (∃ t, exec (.txAckIn a2 0) (txAt 2 3 5) = .next t ∧ t.tx.state ≠ (txAt 2 3 5).tx.state) ∧
    (let s := { small with rx := { small.rx with cfgM := 4 } }
     ∃ t, exec .rxStart s = .next t ∧ t.rx.state ≠ s.rx.state) ∧
    (∃ t, exec (.rxFrameIn f2 0) (rxAt 2 8) = .next t ∧ t.rx.state ≠ (rxAt 2 8).rx.state) :=
  ⟨⟨_, rfl, by decide⟩, ⟨_, rfl, by decide⟩, ⟨_, rfl, by decide⟩, ⟨_, rfl, by decide⟩⟩

/-- `StepKeepsReassembly`: a receive transfer with a frame presented next. -/
theorem test_stepKeepsReassembly_premises : (given_ (rxAt 2 8) (.datagram .rx f2)).params.wf ∧
    RxInv (given_ (rxAt 2 8) (.datagram .rx f2)) ∧ ∃ t, step (given_ (rxAt 2 8) (.datagram .rx f2)) = .next t :=
  ⟨by decide, ⟨by decide, by decide, by decide⟩, _, rfl⟩

/-- `StepKeepsBuffers`: written buffers and a write presented next. -/
theorem test_stepKeepsBuffers_premises :
    BufInv (given_ txReady (.present .host { op := 0x32, addr := 15, data := 0x41 })) ∧
    ∃ t, step (given_ txReady (.present .host { op := 0x32, addr := 15, data := 0x41 })) = .next t :=
  ⟨⟨by decide, by decide, by decide, by decide⟩, _, rfl⟩

/-- `StepKeepsQueuesLegal`: a frame and an ack queued. -/
theorem test_stepKeepsQueuesLegal_premises :
    (let s := { txAt 0 1 3 with tx := { (txAt 0 1 3).tx with out := [f0] }, rx := { (rxAt 1 4).rx with out := [a0] } }
     TxInv s.tx ∧ TransferInv s ∧ QueueInv s ∧ ∃ t, step s = .next t) := by
  refine ⟨⟨fun _ => by decide, fun _ => by decide, fun _ => by decide, fun _ => by decide, fun h => absurd h (by decide)⟩,
    ⟨fun _ => by decide, fun _ => by decide⟩, ⟨fun f hf => ?_, fun f hf => ?_⟩, _, rfl⟩
  · cases List.mem_singleton.1 hf
    exact ⟨0, 0x0102, false, [0x41, 0x42, 0x43, 0x44], by decide⟩
  · cases List.mem_singleton.1 hf
    exact ⟨0, 0x0102, by decide⟩

/-- `SegmentsPartitionStream`: three segments, and an empty stream. -/
theorem test_segmentsPartitionStream_premises : (txAt 0 1 3).tx.state = .active ∧ TransferInv (txAt 0 1 3) ∧
    TransferInv { txAt 0 0 5 with tx := { (txAt 0 0 5).tx with len := 0, nseg := 1 } } :=
  ⟨rfl, txAt_transferInv, ⟨fun _ => by decide, fun _ => by decide⟩⟩

/-- `SentSegmentIsReassembled`: the final segment sent, to an RX engine that expects it. -/
theorem test_sentSegmentIsReassembled_premises :
    TransferInv (txAt 2 2 5) ∧ txSendEnabled (txAt 2 2 5).tx = true ∧ (∃ t, exec .txSend (txAt 2 2 5) = .next t) ∧
    (rxAt 2 8).rx.state = .await ∧ (rxAt 2 8).rx.expected = (txAt 2 2 5).tx.next ∧
    (rxAt 2 8).rx.cfgM = (txAt 2 2 5).tx.cfgM ∧ (rxAt 2 8).rx.cfgLoss.toNat ≤ (0 : Half).toNat ∧
    (rxAt 2 8).rx.len.toNat + segLen (txAt 2 2 5).tx (txAt 2 2 5).tx.next.toNat ≤ (rxAt 2 8).params.rxCap ∧
    (rxAt 2 8).params.wf := ⟨⟨fun _ => by decide, fun _ => by decide⟩, by decide, ⟨_, rfl⟩, by decide⟩

/-- A loopback in the middle of the transfer: segment 0 accepted and acknowledged, segment 1 in the queue. -/
def loop : State := { txAt 0 2 3 with
  tx := { (txAt 0 2 3).tx with out := [f1] }
  rx := { (rxAt 1 4).rx with out := [a0] }
  inputs := [.forward (.deliver 0 false 0)] }

theorem loop_txInv : TxInv loop.tx :=
  ⟨fun _ => by decide, fun _ => by decide, fun _ => by decide, fun _ => by decide, fun h => absurd h (by decide)⟩

theorem loop_loopInv : LoopInv stream 4 loop := by
  refine ⟨by decide, fun _ => by decide, fun _ => by decide, fun f hf => ?_, fun _ => by decide,
    fun h => absurd h (by decide), fun _ => by decide, fun _ => by decide⟩
  cases List.mem_singleton.1 hf
  exact ⟨1, 0x0102, by decide⟩

theorem loop_ackInv : AckInv loop := by
  refine ⟨fun _ => by decide, fun f hf => ?_⟩
  cases List.mem_singleton.1 hf
  exact ⟨0, 0x0102, by decide⟩

/-- `LoopbackDeliversPrefix`, `SenderBehindReceiver`: the loopback with a delivery next. -/
theorem test_loopback_premises : loop.params.wf ∧ TxInv loop.tx ∧ LoopInv stream 4 loop ∧ AckInv loop ∧
    (∀ x ∈ loop.inputs.head?, forwardClosed x = true) ∧ (∀ x ∈ loop.inputs.head?, reverseClosed x = true) ∧
    ∃ t, step loop = .next t :=
  ⟨by decide, loop_txInv, loop_loopInv, loop_ackInv, by decide, by decide, _, rfl⟩

/-- The same loopback when both engines are done. -/
def loopDone : State := { txAt 3 3 0 with
  tx := { (txAt 3 3 0).tx with state := .done }
  rx := { (rxAt 3 10).rx with state := .done } }

/-- `SenderDoneMeansDelivered`. -/
theorem test_senderDoneMeansDelivered_premises : TxInv loopDone.tx ∧ LoopInv stream 4 loopDone ∧ AckInv loopDone ∧
    loopDone.tx.state = .done ∧ loopDone.rx.state ≠ .idle :=
  ⟨⟨fun h => absurd h (by decide), fun h => absurd h (by decide), fun h => absurd h (by decide),
      fun h => absurd h (by decide), fun _ => by decide⟩,
    ⟨by decide, fun h => absurd h (by decide), fun _ => by decide, fun _ hf => absurd hf (List.not_mem_nil),
      fun h => absurd h (by decide), fun _ => by decide, fun _ => by decide, fun _ => by decide⟩,
    ⟨fun _ => by decide, fun _ hf => absurd hf (List.not_mem_nil)⟩, rfl, by decide⟩

/-- `ResetMeetsInvariants`: the smallest and the largest segment size, the most segments. -/
theorem test_resetMeetsInvariants_premises :
    (∀ m ∈ [1, 65529], 1 ≤ m ∧ m ≤ 65529 ∧ streamSegments stream m ≤ 65535) ∧
    streamSegments (List.replicate 65535 0) 1 ≤ 65535 :=
  ⟨by decide, by rw [streamSegments, List.length_replicate]; decide⟩

/-! ## Bring-up and runs -/

/-- `BringUpStartsTransfer`, first clause: the header's configuration from the state after reset, and from one in which a
transfer is done. -/
theorem test_bringUp_premises :
    (∀ s ∈ [small, { small with tx := { small.tx with state := .done }, rx := { small.rx with state := .done } }],
      s.params.wf ∧ s.tx.state ≠ .active ∧ s.rx.state ≠ .await ∧ s.tx.out = [] ∧ s.rx.out = [] ∧
      stream.length ≤ s.params.txCap ∧ stream.length ≤ s.params.rxCap) ∧
    1 ≤ (4 : Half).toNat ∧ (65529 : Half).toNat ≤ 65529 ∧ 1 ≤ (1 : Word).toNat ∧
    streamSegments stream (4 : Half).toNat ≤ 65535 := by decide

/-- R265: after the bring-up both engines run, with three segments to send. -/
theorem test_bringUp : lands (execAll (bringUp 4 2 5 0x0102 0 0 0 stream) small) fun t =>
    t.tx.state == .active && t.tx.nseg == 3 && t.tx.len == 10 && t.rx.state == .await && t.rx.cfgM == 4 &&
      cellRead t.tx.buf 9 == some 0x4A := by decide

/-- A loopback transfer of one byte, begun. -/
def begun : State := { small with
  tx := { small.tx with
    state := .active, base := 0, next := 0, nseg := 1, len := 1, cfgM := 4, cfgW := 2, cfgTimeout := 5
    cfgSid := 0x0102, buf := [(0, 0x41)] }
  rx := { small.rx with state := .await, cfgM := 4 } }

/-- `BringUpStartsTransfer`, second clause. -/
theorem test_broughtUp_premises : BroughtUp [0x41] begun :=
  ⟨by decide, by decide, by decide, ⟨fun _ => by decide, fun _ => by decide⟩, by decide, by decide, by decide, by decide⟩

/-- What is presented in a run of that transfer: nothing, so that the engine sends; the two deliveries; then ticks. -/
def fairGiven : Nat → Option Input
  | 0 => none
  | 1 => some (.forward (.deliver 0 false 0))
  | 2 => some (.reverse (.deliver 0 false 0))
  | _ + 3 => some (.present .tickSource { op := 0x13 })

/-- The states of that run. -/
def fairState : Nat → State
  | 0 => begun
  | n + 1 =>
    match step ((fairState n).offered (fairGiven n)) with
    | .next t => t
    | _ => fairState n

theorem tick_step (s : State) : step (s.offered (fairGiven 3)) =
    .next (({ s with inputs := [] } : State).onTx tick).complete := rfl

theorem fairState_tick (n : Nat) :
    fairState (n + 4) = (({ fairState (n + 3) with inputs := [] } : State).onTx tick).complete := by
  have h : step ((fairState (n + 3)).offered (fairGiven (n + 3))) = _ := tick_step (fairState (n + 3))
  rw [fairState, h]

/-- That run. -/
def fairRun : Run where
  state := fairState
  given := fairGiven
  steps n := by
    match n with
    | 0 => rfl
    | 1 => rfl
    | 2 => rfl
    | n + 3 =>
      show _ = Host.Outcome.next (fairState (n + 4))
      rw [fairState_tick]
      exact tick_step (fairState (n + 3))

/-- From the third step on the sender is done. -/
theorem fairState_done (n : Nat) : (fairState (n + 3)).tx.state = .done := by
  induction n with
  | zero => rfl
  | succ n ih =>
    rw [fairState_tick]
    simp only [State.complete, State.answer, State.onTx, tick]
    split <;> exact ih

/-- From the third step on only ticks are taken. -/
theorem fairRun_takes {n : Nat} {i : Instr} (h : fairRun.takes (n + 3) i) : i = .txTick := by
  obtain ⟨u, hu⟩ := h
  have : fetch ((fairRun.state (n + 3)).offered (fairRun.given (n + 3))) =
    .run .txTick { fairState (n + 3) with inputs := [] } := rfl
  rw [this] at hu
  cases hu
  rfl

/-- A tick emits nothing. -/
theorem fairRun_quiet (n : Nat) (f : Frame) : ¬ fairRun.emitsData (n + 3) f ∧ ¬ fairRun.emitsAck (n + 3) f := by
  have h : fetch ((fairRun.state (n + 3)).offered (fairRun.given (n + 3))) =
    .run .txTick { fairState (n + 3) with inputs := [] } := rfl
  constructor
  · rintro ⟨i, u, new, hu, ho, hf⟩
    rw [h] at hu
    cases hu
    have e : (fairRun.state (n + 3 + 1)).tx.out = (fairState (n + 3)).tx.out := by
      show (fairState (n + 4)).tx.out = _
      rw [fairState_tick]
      simp only [State.complete, State.answer, State.onTx, tick]
      split <;> rfl
    rw [e] at ho
    rw [List.self_eq_append_right.1 ho] at hf
    cases hf
  · rintro ⟨i, u, new, hu, ho, hf⟩
    rw [h] at hu
    cases hu
    have e : (fairRun.state (n + 3 + 1)).rx.out = (fairState (n + 3)).rx.out := by
      show (fairState (n + 4)).rx.out = _
      rw [fairState_tick]
      rfl
    rw [e] at ho
    rw [List.self_eq_append_right.1 ho] at hf
    cases hf

/-- Some step from the third on, where something happens infinitely often. -/
theorem late {p : Nat → Prop} (h : InfinitelyOften p) : ∃ n, p (n + 3) := by
  obtain ⟨k, hk, hp⟩ := h 3
  exact ⟨k - 3, by rwa [Nat.sub_add_cancel hk]⟩

/-- `FairTransferCompletes`: a run that meets every premise, in which the final ack is delivered. -/
theorem test_fairTransferCompletes_premises : FairTransfer [0x41] fairRun ∧
    fairRun.passesToTx 2 (le16 (BitVec.ofNat 16 (streamSegments [0x41] (fairRun.state 0).tx.cfgM.toNat - 1)) ++
      le16 0x0102) := by
  have idle : ∀ n, txSendEnabled (fairRun.state (n + 3)).tx = false ∧ txTimeoutEnabled (fairRun.state (n + 3)).tx = false := by
    intro n
    have h : (fairRun.state (n + 3)).tx.state = .done := fairState_done n
    simp [txSendEnabled, txTimeoutEnabled, h]
  refine ⟨⟨test_broughtUp_premises, fun n x hx => ?_, fun n h => ?_, fun n h => ?_, fun n => ?_, fun f h => ?_,
    fun f h => ?_, fun f h => ?_, fun f h => ?_⟩, 0, ⟨_, rfl⟩, by decide⟩
  · match n with
    | 0 => cases hx
    | 1 => cases hx; rfl
    | 2 => cases hx; rfl
    | n + 3 => cases hx; rfl
  · have := h (n + 3) (by omega)
    rw [(idle n).1] at this
    cases this
  · have := h (n + 3) (by omega)
    rw [(idle n).2] at this
    cases this
  · exact ⟨n + 3, by omega, _, rfl⟩
  · obtain ⟨n, hn⟩ := late h
    exact absurd hn (fairRun_quiet n f).1
  · obtain ⟨n, hn⟩ := late h
    exact absurd hn (fairRun_quiet n f).2
  · obtain ⟨n, r, hn⟩ := late h
    cases fairRun_takes hn
  · obtain ⟨n, r, hn⟩ := late h
    cases fairRun_takes hn

end Sys2Proof.Tests
end

section
/-! The TX engine's internal operations where their guard is false (R10, R165, R172, R189). -/

namespace Sys2Proof.Machine

/-- `TX_SEND` waits where its guard is false (R10, R172). -/
theorem exec_txSend_of_not_enabled {s : State} (h : ¬ txSendEnabled s.tx = true) : exec .txSend s = .next s :=
  if_neg h

/-- `TX_TIMEOUT` waits where its guard is false (R10, R189). -/
theorem exec_txTimeout_of_not_enabled {s : State} (h : ¬ txTimeoutEnabled s.tx = true) :
    exec .txTimeout s = .next s :=
  if_neg h

/-- The negation of `TX_SEND`'s guard (R165): outside `ACTIVE`, a full window, or no segment left to send. -/
theorem not_txSendEnabled_iff (x : TxEngine) : ¬ txSendEnabled x = true ↔
    x.state ≠ .active ∨ x.base.toNat + x.cfgW.toNat ≤ x.next.toNat ∨ x.nseg.toNat ≤ x.next.toNat := by
  rw [txSendEnabled_iff, not_and_or, not_and_or, not_lt, not_lt]

/-- The negation of `TX_TIMEOUT`'s guard (R189): outside `ACTIVE`, a stopped timer, or ticks left. -/
theorem not_txTimeoutEnabled_iff (x : TxEngine) : ¬ txTimeoutEnabled x = true ↔
    x.state ≠ .active ∨ x.tmrRun = false ∨ x.tmrCount ≠ 0 := by
  rw [txTimeoutEnabled_iff, not_and_or, not_and_or, Bool.not_eq_true]

/-- Settles O16: each listed reason makes the operation's guard false, and a false guard leaves the state as it is. -/
theorem internalOperationsWait : Obligations.InternalOperationsWait :=
  ⟨fun s h => exec_txSend_of_not_enabled ((not_txSendEnabled_iff s.tx).2 h),
    fun s h => exec_txTimeout_of_not_enabled ((not_txTimeoutEnabled_iff s.tx).2 h)⟩

end Sys2Proof.Machine
end

section
/-! The window and timer invariants survive every step (R52, R186, R193). -/

namespace Sys2Proof.Machine

/-- The window and timer invariants say nothing of the error register, `TXBUF` and `TX_OUT`. -/
theorem TxInv.frame {x : TxEngine} (h : TxInv x) (e : Half) (m : Memory) (o : List Frame) :
    TxInv { x with err := e, buf := m, out := o } :=
  ⟨h.window, h.timer, h.stopped, h.bounded, h.finished⟩

theorem txInv_reset : TxInv TxEngine.reset := ⟨nofun, nofun, nofun, nofun, nofun⟩

/-- The count of segments a passing `TX_START` stores does not wrap (R162, R163). -/
theorem beginTransfer_nseg_toNat {x : TxEngine} (hn : ceilDiv x.len.toNat x.cfgM.toNat ≤ 65535) :
    (beginTransfer x).nseg.toNat = max 1 (ceilDiv x.len.toNat x.cfgM.toNat) := by
  rw [beginTransfer_nseg, BitVec.toNat_ofNat]
  omega

/-- A transfer begins with an empty window and the timer stopped (R163). -/
theorem beginTransfer_txInv {x : TxEngine} (hn : ceilDiv x.len.toNat x.cfgM.toNat ≤ 65535) :
    TxInv (beginTransfer x) := by
  have hc := beginTransfer_nseg_toNat hn
  exact
    { window := fun _ => by
        rw [hc, beginTransfer_base, beginTransfer_next]
        simp
      timer := fun _ => by simp
      stopped := fun _ _ => rfl
      bounded := fun _ => Nat.zero_le _
      finished := nofun }

/-- Sending opens the window by one segment, and the timer runs afterwards (R166). -/
theorem sendNext_keeps_txInv {x : TxEngine} (h : TxInv x) (f : Frame) (hs : x.state = .active)
    (hw : x.next.toNat < x.base.toNat + x.cfgW.toNat) (hn : x.next.toNat < x.nseg.toNat) : TxInv (sendNext x f) := by
  obtain ⟨hbn, -, -, hlt⟩ := h.window hs
  have hnext : (x.next + 1).toNat = x.next.toNat + 1 := half_succ (by have := x.nseg.isLt; omega)
  have hrun : (sendNext x f).tmrRun = true := by
    by_cases he : x.base = x.next
    · simp [he]
    · have hne : x.base.toNat ≠ x.next.toNat := fun h => he (BitVec.eq_of_toNat_eq h)
      simp [(h.timer hs).2 (by omega)]
  refine ⟨fun _ => ?_, fun _ => ?_, fun _ hr => ?_, fun _ => ?_, fun hd => ?_⟩
  · rw [sendNext_base, sendNext_next, sendNext_cfgW, sendNext_nseg, hnext]
    omega
  · rw [hrun, sendNext_base, sendNext_next, hnext]
    simpa using Nat.lt_succ_of_le hbn
  · rw [hrun] at hr; cases hr
  · rw [sendNext_tmrCount, sendNext_cfgTimeout]
    split
    · exact Nat.le_refl _
    · exact h.bounded hs
  · rw [sendNext_state, hs] at hd; cases hd

/-- An ack of the window moves its lower end and stops or restarts the timer; the last one completes (R169, R170). -/
theorem advanceWindow_keeps_txInv {x : TxEngine} (h : TxInv x) {k : Half} (hs : x.state = .active)
    (hk : k.toNat < x.next.toNat) (hk' : x.base.toNat ≤ k.toNat + 1) : TxInv (advanceWindow x k) := by
  obtain ⟨-, hw, hn, -⟩ := h.window hs
  have hbase : (k + 1).toNat = k.toNat + 1 := half_succ (by have := x.next.isLt; omega)
  have eq_iff : ∀ v : Half, k + 1 = v ↔ k.toNat + 1 = v.toNat := fun v => by rw [← hbase, BitVec.toNat_inj]
  refine ⟨fun ha => ?_, fun _ => ?_, fun _ hr => ?_, fun _ => ?_, fun hd => ?_⟩
  · have hne : k.toNat + 1 ≠ x.nseg.toNat := fun he => by
      rw [advanceWindow_state, if_pos ((eq_iff _).2 he)] at ha
      cases ha
    simp only [advanceWindow_base, advanceWindow_next, advanceWindow_cfgW, advanceWindow_nseg, hbase]
    omega
  · simp only [advanceWindow_tmrRun, advanceWindow_base, advanceWindow_next, decide_eq_true_eq, ne_eq, eq_iff, hbase]
    omega
  · rw [advanceWindow_tmrRun, decide_eq_false_iff_not, not_not] at hr
    rw [advanceWindow_tmrCount, if_pos hr]
  · rw [advanceWindow_tmrCount, advanceWindow_cfgTimeout]
    split
    · exact Nat.zero_le _
    · exact Nat.le_refl _
  · have he : k + 1 = x.nseg := by
      by_contra hne
      rw [advanceWindow_state, if_neg hne, hs] at hd
      cases hd
    have hx : x.next = x.nseg := BitVec.eq_of_toNat_eq (by have := (eq_iff _).1 he; omega)
    rw [advanceWindow_base, advanceWindow_next, advanceWindow_nseg, advanceWindow_tmrRun]
    exact ⟨he.trans hx.symm, hx, decide_eq_false (not_not.2 (he.trans hx.symm))⟩

/-- A tick only counts a running timer down (R188). -/
theorem tick_keeps_txInv {x : TxEngine} (h : TxInv x) : TxInv (tick x) := by
  rw [tick_eq]
  refine ⟨h.window, h.timer, fun hs hr => ?_, fun hs => ?_, h.finished⟩
  · have hr : x.tmrRun = false := hr
    simpa [hr] using h.stopped hs hr
  · have hb := h.bounded hs
    dsimp only
    split
    · rename_i hc
      rw [toNat_pred hc.2]
      omega
    · exact hb

/-- A retransmission restarts the timer, which was running (R190). -/
theorem retransmit_keeps_txInv {x : TxEngine} (h : TxInv x) (fs : List Frame) (hs : x.state = .active)
    (hr : x.tmrRun = true) : TxInv (retransmit x fs) where
  window := h.window
  timer := fun _ => by simpa [hr] using h.timer hs
  stopped := nofun
  bounded := fun _ => Nat.le_refl _
  finished := fun hd => by rw [retransmit_state, hs] at hd; cases hd

/-- Every operation keeps the window and timer invariants. -/
theorem TxMove.keeps_txInv {p : Params} {x y : TxEngine} {i : Instr} (h : TxMove p x i y) (hx : TxInv x) :
    TxInv y := by
  cases h with
  | stay => exact hx
  | error i e d => exact hx.frame _ _ _
  | begin_ hs hm hw ht hl hn => exact beginTransfer_txInv hn
  | send f hs hw hn hf => exact sendNext_keeps_txInv hx f hs hw hn
  | ack i b a hb hd hs hk hk' => exact advanceWindow_keeps_txInv hx hs hk hk'
  | tick => exact tick_keeps_txInv hx
  | burst fs hs hr hc hf => exact retransmit_keeps_txInv hx fs hs hr
  | config c w hs =>
    exact ⟨fun ha => (hs ha).elim, fun ha => (hs ha).elim, fun ha => (hs ha).elim, fun ha => (hs ha).elim, hx.finished⟩
  | clear w => exact hx.frame _ _ _
  | store a w hs ha => exact hx.frame _ _ _

/-- What the fetch hands on meets the window and timer invariants where the state it took did. -/
theorem Handed.keeps_txInv {s t : State} (h : Handed s t) (hs : TxInv s.tx) : TxInv t.tx := by
  obtain ⟨o, -, ht⟩ := h.tx
  rw [ht]
  exact hs.frame _ _ o

/-- Settles O49: each move of the TX engine keeps the invariants, and `step_keeps` carries that to every step. -/
theorem stepKeepsWindow : Obligations.StepKeepsWindow := by
  intro s t hs h
  refine step_keeps (P := fun s => TxInv s.tx) (fun hh => hh.keeps_txInv) (fun ht _ _ _ => ?_)
    (fun hm => hm.tx.keeps_txInv) h hs
  rw [ht]
  exact txInv_reset

end Sys2Proof.Machine
end

section
/-! The reassembly invariant survives every step (R44, R53 (a)). -/

namespace Sys2Proof.Machine

/-- The reassembly invariant of an RX engine with `cap` cells, without the state around it. -/
def RxOk (cap : Nat) (x : RxEngine) : Prop :=
  x.expected.toNat = x.accepted.toNat ∧ x.len.toNat ≤ cap ∧ ∀ a, a < x.len.toNat → cellRead x.buf a ≠ none

theorem rxInv_iff (s : State) : RxInv s ↔ RxOk s.params.rxCap s.rx :=
  ⟨fun h => ⟨h.counts, h.fits, h.written⟩, fun ⟨hc, hf, hw⟩ => ⟨hc, hf, hw⟩⟩

theorem rxOk_of_empty {cap : Nat} {x : RxEngine} (he : x.expected = 0) (ha : x.accepted = 0) (hl : x.len = 0) :
    RxOk cap x := by
  simp [RxOk, he, ha, hl]

/-- The length an accepted frame leaves does not wrap (R44, R140). -/
theorem acceptFrame_len_toNat {x : RxEngine} {d : DataFrame} {cap : Nat} (hc : x.len.toNat + d.payload.length ≤ cap)
    (hcap : cap ≤ 4294967295) : (acceptFrame x d).len.toNat = x.len.toNat + d.payload.length :=
  word_add hc hcap

/-- An accepted frame is counted once on both counters, and its payload fills the cells it adds (R140). -/
theorem acceptFrame_keeps_rxOk {cap : Nat} {x : RxEngine} {d : DataFrame} (h : RxOk cap x) (hcap : cap ≤ 4294967295)
    (hf : x.expected ≠ 0xFFFF) (hc : x.len.toNat + d.payload.length ≤ cap) : RxOk cap (acceptFrame x d) := by
  obtain ⟨hcount, -, hw⟩ := h
  have hlen := acceptFrame_len_toNat hc hcap
  refine ⟨?_, hlen ▸ hc, fun a ha => ?_⟩
  · rw [acceptFrame_expected, acceptFrame_accepted, half_succ_of_ne hf, hcount]
    exact (word_add (n := 1) (cap := 65536) (by have := x.expected.isLt; omega) (by omega)).symm
  · rw [hlen] at ha
    rw [acceptFrame_buf, cellRead_memWrite]
    split
    · simp only [ne_eq, List.getElem?_eq_none_iff, not_le]
      omega
    · exact hw a (by omega)

/-- Every operation keeps the reassembly invariant. -/
theorem RxMove.keeps_rxOk {p : Params} {x y : RxEngine} {i : Instr} (h : RxMove p x i y) (hp : p.wf)
    (hx : RxOk p.rxCap x) : RxOk p.rxCap y := by
  cases h with
  | stay => exact hx
  | error i e d => exact hx
  | begin_ hs hm => exact rxOk_of_empty rfl rfl rfl
  | accept i b d hb hd hs hm he hf hc => exact acceptFrame_keeps_rxOk hx hp.2.2.2 hf hc
  | mismatch i b d hb hd hs he => simpa [RxOk] using hx
  | config c w hs => exact hx
  | clear w => exact hx

/-- Settles O50: each move of the RX engine keeps the invariant, and the capacities never change. -/
theorem stepKeepsReassembly : Obligations.StepKeepsReassembly := by
  intro s t hp hs h
  refine ((rxInv_iff t).2 (step_keeps (P := fun s => s.params.wf ∧ RxOk s.params.rxCap s.rx) ?_ ?_ ?_ h
    ⟨hp, (rxInv_iff s).1 hs⟩).2)
  · intro s t hh hs
    obtain ⟨o, -, ho⟩ := hh.rx
    rw [hh.params, ho]
    exact hs
  · intro s t _ hr hp' hs
    rw [hp', hr]
    exact ⟨hs.1, rxOk_of_empty rfl rfl rfl⟩
  · intro i s t hm hs
    rw [hm.params]
    exact ⟨hs.1, hm.rx.keeps_rxOk hs.1 hs.2⟩

end Sys2Proof.Machine
end

section
/-! The frames an operation appends to an output queue, and that they stay legal (R49, R87, R93). -/

namespace Sys2Proof.Machine

/-- A data frame the TX engine may send: a number other than the sentinel, and a payload of at most 65529 bytes. -/
def LegalData (f : Frame) : Prop :=
  ∃ seq sid : Half, ∃ last : Bool, ∃ p : Frame,
    seq ≠ 0xFFFF ∧ p.length ≤ 65529 ∧ f = le16 seq ++ le16 sid ++ p ++ trailer last

/-- An ack frame the RX engine may send: it does not name the sentinel. -/
def LegalAck (f : Frame) : Prop := ∃ k sid : Half, k ≠ 0xFFFF ∧ f = le16 k ++ le16 sid

theorem queueInv_iff (s : State) : QueueInv s ↔ (∀ f ∈ s.tx.out, LegalData f) ∧ ∀ f ∈ s.rx.out, LegalAck f :=
  ⟨fun h => ⟨h.data, h.acks⟩, fun ⟨hd, ha⟩ => ⟨hd, ha⟩⟩

/-- A frame of a burst is the frame of a segment in flight. -/
theorem mem_segmentFrames {x : TxEngine} {i k : Nat} {fs : List Frame} (h : segmentFrames x i k = some fs) {f : Frame}
    (hf : f ∈ fs) : ∃ j, i ≤ j ∧ j < i + k ∧ segmentFrame x j = some f := by
  obtain ⟨hl, hs⟩ := (segmentFrames_eq_some_iff _ _ _ _).1 h
  obtain ⟨n, hn⟩ := List.mem_iff_getElem?.1 hf
  have hlt : n < k := by
    obtain ⟨h', -⟩ := List.getElem?_eq_some_iff.1 hn
    omega
  exact ⟨i + n, by omega, by omega, (hs n hlt).trans hn⟩

/-- A frame in `TX_OUT` after an operation was there before it or is the frame of a segment of the running transfer. -/
theorem TxMove.mem_out {p : Params} {x y : TxEngine} {i : Instr} (h : TxMove p x i y) (hx : TxInv x) {f : Frame}
    (hf : f ∈ y.out) : f ∈ x.out ∨ (x.state = .active ∧ ∃ j, j < x.nseg.toNat ∧ segmentFrame x j = some f) := by
  cases h with
  | stay => exact .inl hf
  | error i e d => exact .inl hf
  | begin_ hs hm hw ht hl hn => exact .inl hf
  | send g hs hw hn hg =>
    rw [sendNext_out, List.mem_append, List.mem_singleton] at hf
    exact hf.imp_right fun (he : f = g) => ⟨hs, _, hn, by rw [he, hg]⟩
  | ack i b a hb hd hs hk hk' => exact .inl (by simpa using hf)
  | tick => exact .inl (by simpa using hf)
  | burst fs hs hr hc hfs =>
    rw [retransmit_out, List.mem_append] at hf
    refine hf.imp_right fun hf => ?_
    obtain ⟨j, hj, hj', hg⟩ := mem_segmentFrames hfs hf
    obtain ⟨hbn, -, hn, -⟩ := hx.window hs
    unfold inFlight at hj'
    exact ⟨hs, j, by omega, hg⟩
  | config c w hs => exact .inl hf
  | clear w => exact .inl hf
  | store a w hs ha => exact .inl hf

/-- A frame in `RX_OUT` after an operation was there before it or is an ack of an index other than the sentinel (R149). -/
theorem RxMove.mem_out {p : Params} {x y : RxEngine} {i : Instr} (h : RxMove p x i y) {f : Frame}
    (hf : f ∈ y.out) : f ∈ x.out ∨ LegalAck f := by
  cases h with
  | stay => exact .inl hf
  | error i e d => exact .inl hf
  | begin_ hs hm => exact .inl hf
  | accept i b d hb hd hs hm he hfull hc =>
    rw [acceptFrame_out, List.mem_append, List.mem_singleton] at hf
    exact hf.imp_right fun h => ⟨_, _, hfull, h⟩
  | mismatch i b d hb hd hs he =>
    rw [mismatchFrame_out] at hf
    split at hf
    · exact .inl hf
    · rename_i h0
      rw [List.mem_append, List.mem_singleton] at hf
      refine hf.imp_right fun h => ⟨_, _, fun hk => h0 ?_, h⟩
      rw [sub_eq_iff_eq_add.1 hk]
      rfl
  | config c w hs => exact .inl hf
  | clear w => exact .inl hf

/-! ## The transfer invariant -/

/-- The configuration of a running transfer, without the state around it. -/
def TransferOk (cap : Nat) (x : TxEngine) : Prop :=
  x.state = .active →
    (1 ≤ x.cfgM.toNat ∧ x.cfgM.toNat ≤ 65529 ∧ 1 ≤ x.cfgW.toNat ∧ 1 ≤ x.cfgTimeout.toNat ∧ x.len.toNat ≤ cap) ∧
    x.nseg.toNat = max 1 ((x.len.toNat + x.cfgM.toNat - 1) / x.cfgM.toNat)

theorem transferInv_iff (s : State) : TransferInv s ↔ TransferOk s.params.txCap s.tx :=
  ⟨fun h ha => ⟨h.legal ha, h.count ha⟩, fun h => ⟨fun ha => (h ha).1, fun ha => (h ha).2⟩⟩

/-- Every operation keeps the configuration of a running transfer (R79, R267). -/
theorem TxMove.keeps_transferOk {p : Params} {x y : TxEngine} {i : Instr} (h : TxMove p x i y)
    (hx : TransferOk p.txCap x) : TransferOk p.txCap y := by
  cases h with
  | stay => exact hx
  | error i e d => exact hx
  | begin_ hs hm hw ht hl hn => exact fun _ => ⟨⟨hm.1, hm.2, hw, ht, hl⟩, beginTransfer_nseg_toNat hn⟩
  | send f hs hw hn hf => simpa [TransferOk] using hx
  | ack i b a hb hd hs hk hk' => exact fun _ => by simpa using hx hs
  | tick => simpa [TransferOk] using hx
  | burst fs hs hr hc hf => exact hx
  | config c w hs => exact fun ha => (hs ha).elim
  | clear w => exact hx
  | store a w hs ha => exact fun ha => (hs ha).elim

/-- No segment of a running transfer is longer than `CFG_M` (R63). -/
theorem segLen_le_cfgM {cap : Nat} {x : TxEngine} (h : TransferOk cap x) (hs : x.state = .active) (i : Nat) :
    segLen x i ≤ x.cfgM.toNat := by
  obtain ⟨⟨hm, -⟩, hn⟩ := h hs
  have hlast := (segmentCount_bounds (l := x.len.toNat) hm).2.2
  rw [← hn] at hlast
  unfold segLen
  split
  · exact Nat.le_refl _
  · exact hlast

/-- The frame of a segment of a running transfer is legal: its number is below `TX_NSEG` (R87, R93). -/
theorem segmentFrame_legal {cap : Nat} {x : TxEngine} (h : TransferOk cap x) (hs : x.state = .active) {i : Nat}
    (hi : i < x.nseg.toNat) {f : Frame} (hf : segmentFrame x i = some f) : LegalData f := by
  obtain ⟨q, hq, -, rfl⟩ := (segmentFrame_eq_some_iff _ _ _).1 hf
  have hlen : q.length ≤ 65529 := hq ▸ (segLen_le_cfgM h hs i).trans (h hs).1.2.1
  have hnum : (BitVec.ofNat 16 i).toNat = i := by
    rw [BitVec.toNat_ofNat]
    have := x.nseg.isLt
    omega
  refine ⟨_, _, _, q, fun he => ?_, hlen, by rw [encodeData_ok _ _ _ hlen]⟩
  have hlast : (0xFFFF : Half).toNat = i := he ▸ hnum
  have := x.nseg.isLt
  simp only [BitVec.reduceToNat] at hlast
  omega

/-- What `StepKeepsQueuesLegal` carries through a step: the three invariants, in engine form. -/
def SendsLegal (s : State) : Prop :=
  TxInv s.tx ∧ TransferOk s.params.txCap s.tx ∧ (∀ f ∈ s.tx.out, LegalData f) ∧ ∀ f ∈ s.rx.out, LegalAck f

theorem Handed.keeps_sendsLegal {s t : State} (h : Handed s t) (hs : SendsLegal s) : SendsLegal t := by
  obtain ⟨hw, ht, hd, ha⟩ := hs
  obtain ⟨o, ho, htx⟩ := h.tx
  obtain ⟨q, hq, hrx⟩ := h.rx
  refine ⟨h.keeps_txInv hw, ?_, ?_, ?_⟩
  · rw [h.params, htx]
    exact ht
  · rw [htx]
    exact fun f hf => hd f (ho f hf)
  · rw [hrx]
    exact fun f hf => ha f (hq f hf)

theorem Moved.keeps_sendsLegal {i : Instr} {s t : State} (h : Moved i s t) (hs : SendsLegal s) : SendsLegal t := by
  obtain ⟨hw, ht, hd, ha⟩ := hs
  refine ⟨h.tx.keeps_txInv hw, by rw [h.params]; exact h.tx.keeps_transferOk ht, fun f hf => ?_, fun f hf => ?_⟩
  · rcases h.tx.mem_out hw hf with hf | ⟨hact, j, hj, hf⟩
    · exact hd f hf
    · exact segmentFrame_legal ht hact hj hf
  · exact (h.rx.mem_out hf).elim (ha f) id

/-- Settles O52: a frame an operation appends is a segment of the running transfer or an ack of an accepted index. -/
theorem stepKeepsQueuesLegal : Obligations.StepKeepsQueuesLegal := by
  intro s t hw ht hq h
  have hs : SendsLegal s := ⟨hw, (transferInv_iff s).1 ht, (queueInv_iff s).1 hq⟩
  have hreset : ∀ {s t : State}, t.tx = TxEngine.reset → t.rx = RxEngine.reset → t.params = s.params → SendsLegal s →
      SendsLegal t := by
    intro s t htx hrx _ _
    rw [SendsLegal, htx, hrx]
    exact ⟨txInv_reset, nofun, nofun, nofun⟩
  obtain ⟨-, ht', hq'⟩ := step_keeps (P := SendsLegal) (fun hh => hh.keeps_sendsLegal) hreset
    (fun hm => hm.keeps_sendsLegal) h hs
  exact ⟨(transferInv_iff t).2 ht', (queueInv_iff t).2 hq'⟩

end Sys2Proof.Machine
end

section
/-! The safety of a loopback transfer: what the RX engine holds is the stream's beginning (R53, R63, R76, R142, R252). -/

namespace Sys2Proof.Machine

/-- The frame of segment `i` of a stream, with some stream identifier. -/
def StreamFrame (stream : Frame) (m i : Nat) (f : Frame) : Prop :=
  ∃ sid : Half, i < streamSegments stream m ∧
    f = le16 (BitVec.ofNat 16 i) ++ le16 sid ++ streamSegment stream m i ++
      trailer (decide (i + 1 = streamSegments stream m))

/-! ## What a closed forward path presents -/

/-- The bytes a datagram at the TX engine's input brings are no data frame. -/
theorem arrive_tx_run {b : Frame} {s u : State} {i : Instr} (h : arrive .tx b s = .run i u) :
    i ≠ .txStart ∧ dataBytes i = none := by
  simp only [arrive, decodeDatagram] at h
  split at h
  · rename_i j hj
    split at hj
    · cases hj
    · split at hj
      · cases hj
      · cases hj
        cases h
        exact ⟨nofun, rfl⟩
  · cases h
    exact ⟨nofun, rfl⟩
  · cases h

/-- `TX_START` has one row in the op code map (R96). -/
theorem make_eq_txStart {row : OpRow} (hr : row ∈ opTable) {c : OpRecord} (h : row.make c = .txStart) :
    row.op = 0x10 := by
  simp only [opTable, codecRows, txRows, rxRows, hostRows, List.cons_append, List.nil_append, List.mem_cons,
    List.not_mem_nil, or_false] at hr
  rcases hr with rfl | rfl | rfl | rfl | rfl | rfl | rfl | rfl | rfl | rfl | rfl | rfl | rfl | rfl | rfl | rfl <;>
    simp at h ⊢

theorem decodeOp_ne_txStart {c : OpRecord} {i : Instr} (h : decodeOp c = .ok i) (hc : c.op ≠ 0x10) : i ≠ .txStart := by
  obtain ⟨row, hr, hop, rfl⟩ := decodeOp_row h
  exact fun hi => hc (hop.symm.trans (make_eq_txStart hr hi))

/-- An act of the forward channel that runs an operation delivers a frame of `TX_OUT` (R76, R101). -/
theorem forwardStep_run {act : ChannelAct} {s u : State} {i : Instr} (h : forwardStep act s = .run i u) :
    ∃ f r, i = .rxFrameIn f r ∧ f ∈ s.tx.out := by
  cases act with
  | lose =>
    simp only [forwardStep] at h
    split at h <;> cases h
  | deliver k keep r =>
    simp only [forwardStep] at h
    split at h
    · split at h
      · cases h
      · rename_i f hf
        exact ⟨f, r, (takeRecord_forward h).1, List.mem_of_getElem? hf⟩
    · cases h

/-- An act of the reverse channel that runs an operation delivers a frame of `RX_OUT` (R76, R101). -/
theorem reverseStep_run {act : ChannelAct} {s u : State} {i : Instr} (h : reverseStep act s = .run i u) :
    ∃ f r, i = .txAckIn f r ∧ f ∈ s.rx.out := by
  cases act with
  | lose =>
    simp only [reverseStep] at h
    split at h <;> cases h
  | deliver k keep r =>
    simp only [reverseStep] at h
    split at h
    · split at h
      · cases h
      · rename_i f hf
        exact ⟨f, r, (takeRecord_reverse h).1, List.mem_of_getElem? hf⟩
    · cases h

/-- An admitted input of a closed forward path is no `TX_START`, and a data frame it brings was in `TX_OUT`. -/
theorem takeInput_forwardClosed {x : Input} {s u : State} {i : Instr} (h : takeInput x s = .run i u)
    (hc : forwardClosed x = true) : i ≠ .txStart ∧ ∀ b, dataBytes i = some b → b ∈ s.tx.out := by
  cases x with
  | present who c =>
    simp only [forwardClosed, Bool.and_eq_true, bne_iff_ne, ne_eq] at hc
    obtain ⟨hwho, hop⟩ := hc
    obtain ⟨hd, hi, -⟩ := takeRecord_run h
    exact ⟨decodeOp_ne_txStart hd hop, fun b hb => (hwho (hi.symm.trans ((decodeOp_arrival hd).1 b hb).2)).elim⟩
  | datagram e b =>
    obtain rfl : e = .tx := by simpa [forwardClosed] using hc
    obtain ⟨hi, hn⟩ := arrive_tx_run h
    exact ⟨hi, by simp [hn]⟩
  | forward act =>
    obtain ⟨f, r, rfl, hf⟩ := forwardStep_run h
    exact ⟨nofun, fun b hb => Option.some.inj hb ▸ hf⟩
  | reverse act =>
    obtain ⟨f, r, rfl, -⟩ := reverseStep_run h
    exact ⟨nofun, nofun⟩
  | reset => cases h

/-- So is every operation a step takes while the forward path is closed. -/
theorem fetch_forwardClosed {s u : State} {i : Instr} (h : fetch s = .run i u)
    (hc : ∀ x ∈ s.inputs.head?, forwardClosed x = true) :
    i ≠ .txStart ∧ ∀ b, dataBytes i = some b → b ∈ s.tx.out := by
  unfold fetch at h
  split at h
  · obtain ⟨rfl | rfl, -⟩ := ownStep_run h <;> exact ⟨nofun, nofun⟩
  · rename_i x rest hx
    exact takeInput_forwardClosed (s := { s with inputs := rest }) h (hc x (by rw [hx]; rfl))

/-! ## The sending half of the invariant -/

/-- The TX engine sends the stream, and `TX_OUT` holds only segments of it. -/
structure SendsStream (stream : Frame) (m : Nat) (x : TxEngine) : Prop where
  source : x.state = .active →
    x.cfgM.toNat = m ∧ x.len.toNat = stream.length ∧ ∀ a, a < stream.length → cellRead x.buf a = stream[a]?
  total : x.state ≠ .idle → x.nseg.toNat = streamSegments stream m
  frames : ∀ f ∈ x.out, ∃ i, StreamFrame stream m i f

/-- The frame a sending engine builds for one of its segments is that segment of the stream. -/
theorem SendsStream.segmentFrame {stream : Frame} {m : Nat} {x : TxEngine} (h : SendsStream stream m x)
    (hm : 1 ≤ m ∧ m ≤ 65529) (hs : x.state = .active) {j : Nat} (hj : j < x.nseg.toNat) {f : Frame}
    (hf : segmentFrame x j = some f) : StreamFrame stream m j f := by
  obtain ⟨hc, hl, hb⟩ := h.source hs
  have hn := h.total (by rw [hs]; nofun)
  exact ⟨x.cfgSid, hn ▸ hj, segmentFrame_stream hm hc hl hb hn hj hf⟩

/-- Every operation but `TX_START` keeps the sending half: a running transfer's configuration and stream are fixed, and
the frames it appends are segments of the stream. -/
theorem TxMove.keeps_sendsStream {stream : Frame} {m : Nat} {p : Params} {x y : TxEngine} {i : Instr}
    (h : TxMove p x i y) (hi : i ≠ .txStart) (hm : 1 ≤ m ∧ m ≤ 65529) (hw : TxInv x) (hx : SendsStream stream m x) :
    SendsStream stream m y := by
  have hframes : ∀ f ∈ y.out, ∃ j, StreamFrame stream m j f := fun f hf => by
    rcases h.mem_out hw hf with hf | ⟨hs, j, hj, hg⟩
    · exact hx.frames f hf
    · exact ⟨j, hx.segmentFrame hm hs hj hg⟩
  cases h with
  | stay => exact hx
  | error i e d => exact ⟨hx.source, hx.total, hframes⟩
  | begin_ hs hm hw ht hl hn => exact (hi rfl).elim
  | send f hs hw hn hf => exact ⟨by simpa using hx.source, by simpa using hx.total, hframes⟩
  | ack i b a hb hd hs hk hk' =>
    exact ⟨fun _ => by simpa using hx.source hs, fun _ => by simpa using hx.total (by rw [hs]; nofun), hframes⟩
  | tick => exact ⟨by simpa using hx.source, by simpa using hx.total, hframes⟩
  | burst fs hs hr hc hf => exact ⟨hx.source, hx.total, hframes⟩
  | config c w hs => exact ⟨fun ha => (hs ha).elim, hx.total, hframes⟩
  | clear w => exact ⟨hx.source, hx.total, hframes⟩
  | store a w hs ha => exact ⟨fun ha => (hs ha).elim, hx.total, hframes⟩

/-! ## The receiving half of the invariant -/

/-- The RX engine holds the first `RX_EXPECTED` segments of the stream, all of them once it is done. -/
structure HoldsPrefix (stream : Frame) (m : Nat) (x : RxEngine) : Prop where
  progress : x.state = .await → x.expected.toNat < streamSegments stream m
  whole : x.state = .done → x.expected.toNat = streamSegments stream m
  length : x.state ≠ .idle → x.len.toNat = min (x.expected.toNat * m) stream.length
  bytes : x.state ≠ .idle → ∀ a, a < x.len.toNat → cellRead x.buf a = stream[a]?

/-- Accepting the expected segment of the stream adds it to what is held; its final mark stands on the last one only. -/
theorem acceptFrame_holdsPrefix {stream : Frame} {m cap : Nat} {x : RxEngine} {d : DataFrame}
    (h : HoldsPrefix stream m x) (hs : x.state = .await) (hp : d.payload = streamSegment stream m x.expected.toNat)
    (hl : d.last = decide (x.expected.toNat + 1 = streamSegments stream m)) (hf : x.expected ≠ 0xFFFF)
    (hc : x.len.toNat + d.payload.length ≤ cap) (hcap : cap ≤ 4294967295) :
    HoldsPrefix stream m (acceptFrame x d) := by
  have hrun : x.state ≠ .idle := by rw [hs]; nofun
  have hprog := h.progress hs
  have hlen := h.length hrun
  have hexp : (acceptFrame x d).expected.toNat = x.expected.toNat + 1 := half_succ_of_ne hf
  have hstate : (acceptFrame x d).state = if x.expected.toNat + 1 = streamSegments stream m then .done else .await := by
    rw [acceptFrame_state, hl, hs]
    simp
  have hplen : d.payload.length = min m (stream.length - x.expected.toNat * m) := by rw [hp, streamSegment_length]
  have hlen' := acceptFrame_len_toNat hc hcap
  refine ⟨fun ha => ?_, fun hd => ?_, fun _ => ?_, fun _ a ha => ?_⟩
  · rw [hexp]
    have hne : x.expected.toNat + 1 ≠ streamSegments stream m := fun he => by
      rw [hstate, if_pos he] at ha
      cases ha
    omega
  · rw [hexp]
    by_contra hne
    rw [hstate, if_neg hne] at hd
    cases hd
  · rw [hlen', hexp, Nat.add_mul, hlen, hplen]
    omega
  · rw [hlen'] at ha
    rw [acceptFrame_buf, cellRead_memWrite]
    split
    · rename_i hin
      have hoff : x.len.toNat = x.expected.toNat * m := by omega
      rw [hp, streamSegment_getElem (by rw [← hp]; omega)]
      congr 1
      omega
    · exact h.bytes hrun a (by omega)

/-- The fields of a data frame decoded from the frame of a segment. -/
theorem decodeData_streamFrame {stream : Frame} {m i : Nat} {f : Frame} {d : DataFrame} (h : StreamFrame stream m i f)
    (hn : streamSegments stream m ≤ 65535) (hd : decodeData f = .ok d) : d.seq.toNat = i ∧
      d.payload = streamSegment stream m i ∧ d.last = decide (i + 1 = streamSegments stream m) := by
  obtain ⟨sid, hi, rfl⟩ := h
  rw [decodeData_frame] at hd
  cases hd
  refine ⟨?_, rfl, rfl⟩
  rw [BitVec.toNat_ofNat]
  omega

/-- Every operation whose data frame, if it brings one, is a segment of the stream keeps the receiving half. -/
theorem RxMove.keeps_holdsPrefix {stream : Frame} {m : Nat} {p : Params} {x y : RxEngine} {i : Instr}
    (h : RxMove p x i y) (hp : p.wf) (hn : streamSegments stream m ≤ 65535)
    (hb : ∀ b, dataBytes i = some b → ∃ j, StreamFrame stream m j b) (hx : HoldsPrefix stream m x) :
    HoldsPrefix stream m y := by
  cases h with
  | stay => exact hx
  | error i e d => exact ⟨hx.progress, hx.whole, hx.length, hx.bytes⟩
  | begin_ hs hm => exact ⟨fun _ => Nat.le_max_left 1 _, nofun, fun _ => by simp, fun _ a ha => absurd ha (by simp)⟩
  | accept i b d hi hd hs hm he hf hc =>
    obtain ⟨j, hj⟩ := hb b hi
    obtain ⟨hseq, hpay, hlast⟩ := decodeData_streamFrame hj hn hd
    obtain rfl : x.expected.toNat = j := he ▸ hseq
    exact acceptFrame_holdsPrefix hx hs hpay hlast hf hc hp.2.2.2
  | mismatch i b d hi hd hs he =>
    exact ⟨by simpa using hx.progress, by simpa using hx.whole, by simpa using hx.length, by simpa using hx.bytes⟩
  | config c w hs => exact ⟨hx.progress, hx.whole, hx.length, hx.bytes⟩
  | clear w => exact ⟨hx.progress, hx.whole, hx.length, hx.bytes⟩

/-! ## Both halves -/

/-- The loopback invariant is its two halves, one per engine. -/
theorem loopInv_iff {stream : Frame} {m : Nat} {s : State} : LoopInv stream m s ↔
    (1 ≤ m ∧ m ≤ 65529 ∧ streamSegments stream m ≤ 65535) ∧ SendsStream stream m s.tx ∧ HoldsPrefix stream m s.rx := by
  constructor
  · exact fun h => ⟨h.legal, ⟨h.source, h.total, h.frames⟩, ⟨h.progress, h.whole, h.length, h.bytes⟩⟩
  · rintro ⟨hl, ht, hr⟩
    exact ⟨hl, ht.source, ht.total, ht.frames, hr.progress, hr.whole, hr.length, hr.bytes⟩

/-- The invariant holds after `RESET`, whatever the stream. -/
theorem loopInv_of_reset {stream : Frame} {m : Nat} {s : State}
    (hl : 1 ≤ m ∧ m ≤ 65529 ∧ streamSegments stream m ≤ 65535) (ht : s.tx = TxEngine.reset) (hr : s.rx = RxEngine.reset) :
    LoopInv stream m s := by
  rw [loopInv_iff, ht, hr]
  exact ⟨hl, ⟨nofun, fun h => (h rfl).elim, nofun⟩, ⟨nofun, nofun, fun h => (h rfl).elim, fun h => (h rfl).elim⟩⟩

/-- A channel that takes frames away, or delivers them, keeps the invariant. -/
theorem Handed.keeps_loopInv {stream : Frame} {m : Nat} {s t : State} (h : Handed s t) (hs : LoopInv stream m s) :
    LoopInv stream m t := by
  obtain ⟨hl, ht, hr⟩ := loopInv_iff.1 hs
  obtain ⟨o, ho, htx⟩ := h.tx
  obtain ⟨q, -, hrx⟩ := h.rx
  rw [loopInv_iff, htx, hrx]
  exact ⟨hl, ⟨ht.source, ht.total, fun f hf => ht.frames f (ho f hf)⟩, ⟨hr.progress, hr.whole, hr.length, hr.bytes⟩⟩

/-- Settles O56: with the forward path closed, a data frame that arrives is a segment of the stream, so an accepted one
is the next segment of what the RX engine holds; everything else leaves both halves as they are. -/
theorem loopbackDeliversPrefix : Obligations.LoopbackDeliversPrefix := by
  intro stream m s t hp hw hs hc h
  rcases step_cases h with ⟨i, u, hf, he⟩ | hf
  · obtain ⟨hi, hdata⟩ := fetch_forwardClosed hf hc
    have hand := fetch_run hf
    obtain ⟨hl, htx, hrx⟩ := loopInv_iff.1 (hand.keeps_loopInv hs)
    obtain ⟨hmt, hmr, -, -⟩ := exec_moved he
    have hb : ∀ b, dataBytes i = some b → ∃ j, StreamFrame stream m j b := fun b hb => hs.frames b (hdata b hb)
    exact loopInv_iff.2 ⟨hl, hmt.keeps_sendsStream hi ⟨hl.1, hl.2.1⟩ (hand.keeps_txInv hw) htx,
      hmr.keeps_holdsPrefix (hand.params ▸ hp) hl.2.2 hb hrx⟩
  · rcases fetch_idle hf with hh | ⟨ht, hr, -⟩
    · exact hh.keeps_loopInv hs
    · exact loopInv_of_reset hs.legal ht hr

end Sys2Proof.Machine
end

section
/-! Which instruction may touch which engine, and that neither engine sees the other (R21, R73, R74). -/

namespace Sys2Proof.Machine

/-- The operations of the TX engine, with the host's writes to its registers and buffer (R21, R54, R74). -/
def usesTx : Instr → Bool
  | .txStart | .txSend | .txAckIn _ _ | .txTick | .txTimeout | .ack _ _ | .txbufWrite _ _ => true
  | .csrWrite c _ => decide (c.toNat < 0x20)
  | _ => false

/-- The operations of the RX engine, with the host's accesses to its registers and buffer (R21, R54, R74). -/
def usesRx : Instr → Bool
  | .rxStart | .rxFrameIn _ _ | .data _ _ _ | .dataLast _ _ _ | .rxbufRead _ => true
  | .csrWrite c _ => decide (0x20 ≤ c.toNat)
  | _ => false

theorem usesTx_iff (i : Instr) : usesTx i = true ↔
    i = .txStart ∨ i = .txSend ∨ (∃ b r, i = .txAckIn b r) ∨ i = .txTick ∨ i = .txTimeout ∨
      (∃ k sid, i = .ack k sid) ∨ (∃ a d, i = .txbufWrite a d) ∨ (∃ c d, i = .csrWrite c d ∧ c.toNat < 0x20) := by
  cases i <;> simp [usesTx]

theorem usesRx_iff (i : Instr) : usesRx i = true ↔
    i = .rxStart ∨ (∃ b r, i = .rxFrameIn b r) ∨ (∃ seq sid p, i = .data seq sid p) ∨
      (∃ seq sid p, i = .dataLast seq sid p) ∨ (∃ a, i = .rxbufRead a) ∨
      (∃ c d, i = .csrWrite c d ∧ 0x20 ≤ c.toNat) := by
  cases i <;> simp [usesRx]

/-! ## CSR writes act on one engine, by a function of that engine -/

/-- A write to a TX configuration register as a function of the TX engine. -/
def txConfigWrite (f : TxEngine → TxEngine) (x : TxEngine) : TxEngine :=
  if x.state = .active then { x with err := recordError x.err .busy 0x02 } else f x

/-- A write to an RX configuration register as a function of the RX engine. -/
def rxConfigWrite (f : RxEngine → RxEngine) (x : RxEngine) : RxEngine :=
  if x.state = .await then { x with err := recordError x.err .busy 0x02 } else f x

theorem storeTxConfig_eq (s : State) (f : TxEngine → TxEngine) : storeTxConfig s f = s.onTx (txConfigWrite f) := by
  unfold storeTxConfig txConfigWrite
  split <;> simp_all [raiseTx, State.onTx]

theorem storeRxConfig_eq (s : State) (f : RxEngine → RxEngine) : storeRxConfig s f = s.onRx (rxConfigWrite f) := by
  unfold storeRxConfig rxConfigWrite
  split <;> simp_all [raiseRx, State.onRx]

/-- The registers below index 0x20 are the TX engine's (R54). -/
def csrIsTx : Csr → Bool
  | .rxStatus | .rxErr | .rxCfgM | .rxCfgLoss | .rxExpected | .rxLen | .rxAccepted => false
  | _ => true

theorem csrAt_isTx {c : BitVec 6} {k : Csr} (h : csrAt c = some k) : csrIsTx k = decide (c.toNat < 0x20) := by
  have all : ∀ c : BitVec 6, ∀ k ∈ csrAt c, csrIsTx k = decide (c.toNat < 0x20) := by decide
  exact all c k h

theorem csrStore_tx (w : Word) {k : Csr} (h : csrIsTx k = true) : ∃ f, ∀ s, csrStore s w k = s.onTx f := by
  cases k with
  | txCtrl | cfgM | cfgW | cfgTimeout | cfgSid | cfgLoss | txLen => exact ⟨_, fun s => storeTxConfig_eq s _⟩
  | txErr => exact ⟨fun x => { x with err := 0 }, fun s => rfl⟩
  | txStatus | txBase | txNext | txNseg | tmrCount | txTime | txSent | txRetx | txTStart | txTEnd =>
    exact ⟨id, fun s => rfl⟩
  | rxStatus | rxErr | rxCfgM | rxCfgLoss | rxExpected | rxLen | rxAccepted => cases h

theorem csrStore_rx (w : Word) {k : Csr} (h : csrIsTx k = false) : ∃ f, ∀ s, csrStore s w k = s.onRx f := by
  cases k with
  | rxCfgM | rxCfgLoss => exact ⟨_, fun s => storeRxConfig_eq s _⟩
  | rxErr => exact ⟨fun x => { x with err := 0 }, fun s => rfl⟩
  | rxStatus | rxExpected | rxLen | rxAccepted => exact ⟨id, fun s => rfl⟩
  | _ => cases h

/-- A write below index 0x20 is a function of the TX engine. -/
theorem csrWrite_low {c : BitVec 6} (h : c.toNat < 0x20) (w : Word) : ∃ f, ∀ s, csrWrite s c w = s.onTx f := by
  cases hk : csrAt c with
  | none => exact ⟨id, fun s => by rw [csrWrite, hk]; rfl⟩
  | some k =>
    obtain ⟨f, hf⟩ := csrStore_tx w ((csrAt_isTx hk).trans (decide_eq_true h))
    exact ⟨f, fun s => by rw [csrWrite, hk]; exact hf s⟩

/-- A write from index 0x20 up is a function of the RX engine. -/
theorem csrWrite_high {c : BitVec 6} (h : 0x20 ≤ c.toNat) (w : Word) : ∃ f, ∀ s, csrWrite s c w = s.onRx f := by
  cases hk : csrAt c with
  | none => exact ⟨id, fun s => by rw [csrWrite, hk]; rfl⟩
  | some k =>
    obtain ⟨f, hf⟩ := csrStore_rx w ((csrAt_isTx hk).trans (decide_eq_false (Nat.not_lt.2 h)))
    exact ⟨f, fun s => by rw [csrWrite, hk]; exact hf s⟩

/-! ## The TX engine after an operation -/

/-- The TX engine an operation leaves; none where it does not complete. -/
def txAfter : Host.Outcome State Fault Refusal → Option TxEngine
  | .next t => some t.tx
  | _ => none

theorem txAfter_eq_some {o : Host.Outcome State Fault Refusal} {x : TxEngine} (h : txAfter o = some x) :
    ∃ t, o = .next t ∧ t.tx = x := by
  cases o with
  | next t => exact ⟨t, rfl, Option.some.inj h⟩
  | fault r => cases h
  | refused r => cases h

/-- An arriving data frame leaves the TX engine alone. -/
@[simp] theorem frameArrives_tx (s : State) (b : Frame) (r : Half) : (frameArrives s b r).tx = s.tx := by
  obtain ⟨y, hy, -⟩ := frameArrives_move s (.rxFrameIn b r) b r rfl
  rw [hy]

/-- Every operation that is not the TX engine's completes and leaves it as it is. -/
theorem txAfter_exec_of_not_usesTx {i : Instr} (h : usesTx i = false) (s : State) : txAfter (exec i s) = some s.tx := by
  cases i with
  | txStart | txSend | txAckIn | txTick | txTimeout | ack | txbufWrite => cases h
  | encData | encAck | csrRead | statsSnapshot => rfl
  | decData frame =>
    simp only [exec, execDecData]
    split <;> rfl
  | decAck frame =>
    simp only [exec, execDecAck]
    split <;> rfl
  | rxStart =>
    simp only [exec, execRxStart]
    split
    · rfl
    · split <;> rfl
  | rxFrameIn frame r => exact congrArg some (frameArrives_tx s frame r)
  | data seq sid payload => exact congrArg some (frameArrives_tx s.useFresh _ _)
  | dataLast seq sid payload => exact congrArg some (frameArrives_tx s.useFresh _ _)
  | csrWrite c w =>
    obtain ⟨f, hf⟩ := csrWrite_high (Nat.not_lt.1 (of_decide_eq_false h)) w
    simp only [exec, execCsrWrite, hf]
    rfl
  | rxbufRead a =>
    simp only [exec, execRxbufRead]
    split
    · simp [txAfter]
    · split <;> simp [txAfter]

/-- The TX engine after one of its operations, whatever stands beside it. -/
theorem txAfter_exec_frame {i : Instr} (h : usesTx i = true) (s : State) (y : RxEngine) (q : Option PortResult)
    (l : List Input) : txAfter (exec i { s with rx := y, result := q, inputs := l }) = txAfter (exec i s) := by
  cases i with
  | encData | encAck | csrRead | statsSnapshot | decData | decAck | rxStart | rxFrameIn | data | dataLast | rxbufRead =>
    cases h
  | txAckIn | txTick | ack => rfl
  | txStart =>
    have hc : txConfigError { s with rx := y, result := q, inputs := l } = txConfigError s := rfl
    simp only [exec, execTxStart, hc]
    split
    · rfl
    · split <;> rfl
  | txSend =>
    simp only [exec, execTxSend]
    split
    · split <;> rfl
    · rfl
  | txTimeout =>
    simp only [exec, execTxTimeout]
    split
    · split <;> rfl
    · rfl
  | txbufWrite a w =>
    simp only [exec, execTxbufWrite]
    split
    · rfl
    · split <;> rfl
  | csrWrite c w =>
    obtain ⟨f, hf⟩ := csrWrite_low (of_decide_eq_true h) w
    simp only [exec, execCsrWrite, hf]
    rfl

/-- The TX engine after an operation is a function of the TX engine, the parameters and the free-value count. -/
theorem txAfter_exec_congr (i : Instr) {s s' : State} (ht : s'.tx = s.tx) (hp : s'.params = s.params)
    (hf : s'.fresh = s.fresh) : txAfter (exec i s') = txAfter (exec i s) := by
  cases h : usesTx i with
  | false => rw [txAfter_exec_of_not_usesTx h, txAfter_exec_of_not_usesTx h, ht]
  | true =>
    obtain ⟨tx, rx, q, p, l, n⟩ := s'
    cases ht
    cases hp
    cases hf
    exact txAfter_exec_frame h s rx q l

/-! ## The RX engine after an operation -/

/-- The RX engine an operation leaves; none where it does not complete. -/
def rxAfter : Host.Outcome State Fault Refusal → Option RxEngine
  | .next t => some t.rx
  | _ => none

/-- Every operation that is not the RX engine's leaves it as it is where it completes. -/
theorem exec_rx_of_not_usesRx {i : Instr} (h : usesRx i = false) {s t : State} (he : exec i s = .next t) :
    t.rx = s.rx := by
  cases i with
  | rxStart | rxFrameIn | data | dataLast | rxbufRead => cases h
  | encData | encAck | csrRead | statsSnapshot | txAckIn | txTick | ack => cases he; rfl
  | decData frame =>
    simp only [exec, execDecData] at he
    split at he <;> cases he <;> rfl
  | decAck frame =>
    simp only [exec, execDecAck] at he
    split at he <;> cases he <;> rfl
  | txStart =>
    simp only [exec, execTxStart] at he
    split at he
    · cases he; rfl
    · split at he <;> cases he <;> rfl
  | txSend =>
    simp only [exec, execTxSend] at he
    split at he
    · split at he <;> cases he; rfl
    · cases he; rfl
  | txTimeout =>
    simp only [exec, execTxTimeout] at he
    split at he
    · split at he <;> cases he; rfl
    · cases he; rfl
  | txbufWrite a w =>
    simp only [exec, execTxbufWrite] at he
    split at he
    · cases he; rfl
    · split at he <;> cases he <;> rfl
  | csrWrite c w =>
    obtain ⟨f, hf⟩ := csrWrite_low (Nat.not_le.1 (of_decide_eq_false h)) w
    simp only [exec, execCsrWrite, hf] at he
    cases he; rfl

/-- The RX engine after a data frame arrives, whatever stands beside it. -/
theorem frameArrives_rx_frame (s : State) (b : Frame) (r : Half) (x : TxEngine) (q : Option PortResult)
    (l : List Input) : (frameArrives { s with tx := x, result := q, inputs := l } b r).rx = (frameArrives s b r).rx := by
  simp only [frameArrives, takeData]
  (repeat' split) <;> rfl

/-- The RX engine after one of its operations, whatever stands beside it. -/
theorem rxAfter_exec_frame {i : Instr} (h : usesRx i = true) (s : State) (x : TxEngine) (q : Option PortResult)
    (l : List Input) : rxAfter (exec i { s with tx := x, result := q, inputs := l }) = rxAfter (exec i s) := by
  cases i with
  | encData | encAck | csrRead | statsSnapshot | decData | decAck | txStart | txSend | txAckIn | txTick | txTimeout |
    ack | txbufWrite => cases h
  | rxStart =>
    simp only [exec, execRxStart]
    split
    · rfl
    · split <;> rfl
  | rxFrameIn frame r => exact congrArg some (frameArrives_rx_frame s frame r x q l)
  | data seq sid payload => exact congrArg some (frameArrives_rx_frame s.useFresh _ _ x q l)
  | dataLast seq sid payload => exact congrArg some (frameArrives_rx_frame s.useFresh _ _ x q l)
  | rxbufRead a =>
    simp only [exec, execRxbufRead]
    split
    · simp [rxAfter]
    · split <;> simp [rxAfter]
  | csrWrite c w =>
    obtain ⟨f, hf⟩ := csrWrite_high (of_decide_eq_true h) w
    simp only [exec, execCsrWrite, hf]
    rfl

/-- Settles O40: an operation that uses neither engine's registers leaves that engine as it is. -/
theorem enginesDisjoint : Obligations.EnginesDisjoint := by
  intro i s t h
  have hm := exec_moved h
  refine ⟨fun hne => (usesTx_iff i).1 ?_, fun hne => (usesRx_iff i).1 ?_, hm.params, hm.inputs⟩
  · by_contra hi
    have := txAfter_exec_of_not_usesTx (by simpa using hi) s
    rw [h] at this
    exact hne (Option.some.inj this)
  · by_contra hi
    exact hne (exec_rx_of_not_usesRx (by simpa using hi) h)

/-- Settles O41: the engine an operation leaves is a function of that engine, the parameters and the free-value count. -/
theorem enginesDoNotSeeEachOther : Obligations.EnginesDoNotSeeEachOther := by
  constructor
  · intro i s s' t ht hp hf h
    exact txAfter_eq_some ((txAfter_exec_congr i ht hp hf).trans (by rw [h]; rfl))
  · intro i s s' t t' hr hp hf h h'
    cases hi : usesRx i with
    | false => rw [exec_rx_of_not_usesRx hi h', exec_rx_of_not_usesRx hi h, hr]
    | true =>
      obtain ⟨tx, rx, q, p, l, n⟩ := s'
      cases hr
      cases hp
      cases hf
      have heq := rxAfter_exec_frame hi s tx q l
      rw [h, h'] at heq
      exact Option.some.inj heq

end Sys2Proof.Machine
end

section
/-! What an operation does to the reassembled bytes and to the output queues (R43, R49, R53, R65). -/

namespace Sys2Proof.Machine

/-- `y` has reassembled what `x` had, and at most one segment more. -/
def Extends (x y : RxEngine) : Prop :=
  (y.expected.toNat = x.expected.toNat ∨ y.expected.toNat = x.expected.toNat + 1) ∧ x.len.toNat ≤ y.len.toNat ∧
    ∀ a, a < x.len.toNat → cellRead y.buf a = cellRead x.buf a

theorem extends_of_eq {x y : RxEngine} (he : y.expected = x.expected) (hl : y.len = x.len) (hb : y.buf = x.buf) :
    Extends x y := ⟨.inl (congrArg _ he), by rw [hl], fun a _ => by rw [hb]⟩

/-- An accepted frame is written from `RX_LEN` up (R140). -/
theorem acceptFrame_extends {cap : Nat} {x : RxEngine} {d : DataFrame} (hf : x.expected ≠ 0xFFFF)
    (hc : x.len.toNat + d.payload.length ≤ cap) (hcap : cap ≤ 4294967295) : Extends x (acceptFrame x d) := by
  refine ⟨.inr (half_succ_of_ne hf), ?_, fun a ha => ?_⟩
  · rw [acceptFrame_len_toNat hc hcap]
    omega
  · rw [acceptFrame_buf, cellRead_memWrite, if_neg (by omega)]

/-- Within a transfer only an accepted frame moves the reassembly. -/
theorem RxMove.extends_reassembly {p : Params} {x y : RxEngine} {i : Instr} (h : RxMove p x i y) (hs : x.state = .await)
    (hp : p.wf) : Extends x y := by
  cases h with
  | begin_ hidle => exact (hidle hs).elim
  | config c w hidle => exact (hidle hs).elim
  | accept i b d hb hd hs hm he hf hc => exact acceptFrame_extends hf hc hp.2.2.2
  | mismatch i b d =>
    exact extends_of_eq (mismatchFrame_expected x d) (mismatchFrame_len x d) (mismatchFrame_buf x d)
  | stay | error | clear => exact extends_of_eq rfl rfl rfl

/-- Settles O45: every operation in `AWAIT` extends the reassembly or leaves it. -/
theorem reassemblyMonotonic : Obligations.ReassemblyMonotonic :=
  fun _ _ _ hs hp h => (exec_moved h).rx.extends_reassembly hs hp

/-- A data frame comes with one of the three operations that bring one. -/
theorem dataBytes_eq_some {i : Instr} {b : Frame} (h : dataBytes i = some b) : (∃ b r, i = .rxFrameIn b r) ∨
    (∃ seq sid p, i = .data seq sid p) ∨ ∃ seq sid p, i = .dataLast seq sid p := by
  cases i with
  | rxFrameIn frame r => exact .inl ⟨_, _, rfl⟩
  | data seq sid payload => exact .inr (.inl ⟨_, _, _, rfl⟩)
  | dataLast seq sid payload => exact .inr (.inr ⟨_, _, _, rfl⟩)
  | _ => cases h

/-- The frames an operation appends to `TX_OUT` (R49). -/
theorem TxMove.out_append {p : Params} {x y : TxEngine} {i : Instr} (h : TxMove p x i y) :
    ∃ new, y.out = x.out ++ new ∧ (new ≠ [] → i = .txSend ∨ i = .txTimeout) := by
  have quiet : ∀ {z : TxEngine}, z.out = x.out →
      ∃ new, z.out = x.out ++ new ∧ (new ≠ [] → i = .txSend ∨ i = .txTimeout) := fun hz =>
    ⟨[], by rw [hz, List.append_nil], fun hn => (hn rfl).elim⟩
  cases h with
  | send f hs hw hn hf => exact ⟨[f], sendNext_out x f, fun _ => .inl rfl⟩
  | burst fs hs hr hc hf => exact ⟨fs, rfl, fun _ => .inr rfl⟩
  | ack i b a => exact quiet (advanceWindow_out x a.ackNum)
  | tick => exact quiet (tick_out x)
  | stay | error | begin_ | config | clear | store => exact quiet rfl

/-- The frames an operation appends to `RX_OUT` (R49). -/
theorem RxMove.out_append {p : Params} {x y : RxEngine} {i : Instr} (h : RxMove p x i y) :
    ∃ new, y.out = x.out ++ new ∧ (new ≠ [] → ∃ b, dataBytes i = some b) := by
  have quiet : ∀ {z : RxEngine}, z.out = x.out → ∃ new, z.out = x.out ++ new ∧ (new ≠ [] → ∃ b, dataBytes i = some b) :=
    fun hz => ⟨[], by rw [hz, List.append_nil], fun hn => (hn rfl).elim⟩
  cases h with
  | accept i b d hb => exact ⟨_, acceptFrame_out x d, fun _ => ⟨b, hb⟩⟩
  | mismatch i b d hb =>
    have ho := mismatchFrame_out x d
    split at ho
    · exact quiet ho
    · exact ⟨_, ho, fun _ => ⟨b, hb⟩⟩
  | stay | error | begin_ | config | clear => exact quiet rfl

/-- Settles O47: a queue changes only by what `TxMove.out_append` and `RxMove.out_append` say. -/
theorem queuesOnlyGrow : Obligations.QueuesOnlyGrow := by
  intro i s t h
  obtain ⟨htx, hrx, -, -⟩ := exec_moved h
  obtain ⟨new, hnew, hd⟩ := hrx.out_append
  refine ⟨htx.out_append, new, hnew, fun hn => ?_⟩
  obtain ⟨b, hb⟩ := hd hn
  exact dataBytes_eq_some hb

end Sys2Proof.Machine
end

section
/-! The state after reset: its values, and that it meets every invariant (R6, R59, R264). -/

namespace Sys2Proof.Machine

/-- The four status lines as functions of the state (R243). -/
theorem statusLines_iff (s : State) : (lineTxDone s = true ↔ s.tx.state = .done) ∧
    (lineRxDone s = true ↔ s.rx.state = .done) ∧ (lineTxErr s = true ↔ s.tx.err ≠ 0) ∧
    (lineRxErr s = true ↔ s.rx.err ≠ 0) :=
  ⟨decide_eq_true_iff, decide_eq_true_iff, decide_eq_true_iff, decide_eq_true_iff⟩

/-- Settles O34: every value is the one `State.reset` holds, and no status line is asserted there. -/
theorem resetValues : Obligations.ResetValues :=
  ⟨rfl, rfl, fun _ => rfl, rfl, rfl, rfl, rfl, statusLines_iff⟩

/-- The machine's capacities are in the range R6 gives them. -/
theorem params_machine_wf : Params.machine.wf := by
  have ht := Config.txCapPred.isLt
  have hr := Config.rxCapPred.isLt
  refine ⟨Nat.le_add_left 1 _, ?_, Nat.le_add_left 1 _, ?_⟩
  · show Config.txCapPred.val + 1 ≤ _
    omega
  · show Config.rxCapPred.val + 1 ≤ _
    omega

/-- Settles O53: neither engine runs, and buffers, queues and counters are empty. -/
theorem resetMeetsInvariants : Obligations.ResetMeetsInvariants :=
  ⟨params_machine_wf, txInv_reset, ⟨nofun, nofun⟩, (rxInv_iff _).2 (rxOk_of_empty rfl rfl rfl),
    ⟨.nil, .nil, nofun, nofun⟩, ⟨nofun, nofun⟩, ⟨fun h => (h rfl).elim, nofun⟩,
    fun _ _ h1 hm hn => loopInv_of_reset ⟨h1, hm, hn⟩ rfl rfl⟩

end Sys2Proof.Machine
end

section
/-! Both byte spaces stay canonical and within their capacities, and what a running transfer reads of its engine is fixed
(R61, R62, R65, R79, R267). -/

namespace Sys2Proof.Machine

/-- A byte space in canonical form, with every address below `cap`. -/
def BufOk (cap : Nat) (m : Memory) : Prop := m.wf ∧ ∀ c ∈ m, c.1 < cap

theorem bufInv_iff (s : State) : BufInv s ↔ BufOk s.params.txCap s.tx.buf ∧ BufOk s.params.rxCap s.rx.buf :=
  ⟨fun h => ⟨⟨h.txForm, h.txRange⟩, ⟨h.rxForm, h.rxRange⟩⟩, fun ⟨⟨ht, ht'⟩, hr, hr'⟩ => ⟨ht, hr, ht', hr'⟩⟩

theorem bufOk_nil (cap : Nat) : BufOk cap [] := ⟨.nil, nofun⟩

/-- A range write that ends within the capacity keeps form and range. -/
theorem memWrite_keeps_bufOk {cap a : Nat} {m : Memory} {p : Frame} (h : BufOk cap m) (hc : a + p.length ≤ cap) :
    BufOk cap (memWrite m a p) := by
  obtain ⟨hform, hrange⟩ := h
  refine ⟨memWrite_wf p hform a, fun c hm => ?_⟩
  rcases mem_memWrite p hm with hold | ⟨-, hnew⟩
  · exact hrange c hold
  · omega

/-- Only `TXBUF_WRITE` writes `TXBUF`, at one address below `TXCAP` (R213). -/
theorem TxMove.keeps_bufOk {p : Params} {x y : TxEngine} {i : Instr} (h : TxMove p x i y)
    (hx : BufOk p.txCap x.buf) : BufOk p.txCap y.buf := by
  cases h with
  | store a w hs ha => exact memWrite_keeps_bufOk hx ha
  | send f => rwa [sendNext_buf]
  | ack i b a => rwa [advanceWindow_buf]
  | tick => rwa [tick_buf]
  | stay | error | begin_ | burst | config | clear => exact hx

/-- Only an accepted frame writes `RXBUF`, and it ends within `RXCAP` (R140, R147). -/
theorem RxMove.keeps_bufOk {p : Params} {x y : RxEngine} {i : Instr} (h : RxMove p x i y)
    (hx : BufOk p.rxCap x.buf) : BufOk p.rxCap y.buf := by
  cases h with
  | accept i b d hb hd hs hm he hf hc => exact memWrite_keeps_bufOk hx hc
  | mismatch i b d => rwa [mismatchFrame_buf]
  | stay | error | begin_ | config | clear => exact hx

/-- A channel's act on a queue leaves both byte spaces as they are. -/
theorem Handed.keeps_bufInv {s t : State} (h : Handed s t) (hs : BufInv s) : BufInv t := by
  obtain ⟨o, -, ht⟩ := h.tx
  obtain ⟨q, -, hr⟩ := h.rx
  rw [bufInv_iff, h.params, ht, hr]
  exact (bufInv_iff s).1 hs

theorem Moved.keeps_bufInv {i : Instr} {s t : State} (h : Moved i s t) (hs : BufInv s) : BufInv t := by
  obtain ⟨ht, hr⟩ := (bufInv_iff s).1 hs
  rw [bufInv_iff, h.params]
  exact ⟨h.tx.keeps_bufOk ht, h.rx.keeps_bufOk hr⟩

/-- Settles O51: each move writes within the capacity, and `step_keeps` carries that to every step. -/
theorem stepKeepsBuffers : Obligations.StepKeepsBuffers := by
  intro s t hs h
  refine step_keeps (P := BufInv) (fun hh => hh.keeps_bufInv) (fun ht hr _ _ => ?_) (fun hm => hm.keeps_bufInv) h hs
  rw [bufInv_iff, ht, hr]
  exact ⟨bufOk_nil _, bufOk_nil _⟩

/-- `y` has the configuration, the stream and the segment count of `x`. -/
def SameTransfer (x y : TxEngine) : Prop :=
  y.cfgM = x.cfgM ∧ y.cfgW = x.cfgW ∧ y.cfgTimeout = x.cfgTimeout ∧ y.cfgSid = x.cfgSid ∧ y.cfgLoss = x.cfgLoss ∧
    y.ctrl = x.ctrl ∧ y.len = x.len ∧ y.nseg = x.nseg ∧ y.buf = x.buf

/-- The moves that write one of these fields are those of an engine that is not `ACTIVE`. -/
theorem TxMove.sameTransfer {p : Params} {x y : TxEngine} {i : Instr} (h : TxMove p x i y) (hs : x.state = .active) :
    SameTransfer x y := by
  cases h with
  | begin_ hidle | config c w hidle | store a w hidle => exact (hidle hs).elim
  | send | ack | tick => simp [SameTransfer]
  | stay | error | burst | clear => exact ⟨rfl, rfl, rfl, rfl, rfl, rfl, rfl, rfl, rfl⟩

/-- The move that writes an RX configuration register is one of an engine that is not in `AWAIT`. -/
theorem RxMove.sameConfig {p : Params} {x y : RxEngine} {i : Instr} (h : RxMove p x i y) (hs : x.state = .await) :
    y.cfgM = x.cfgM ∧ y.cfgLoss = x.cfgLoss := by
  cases h with
  | config c w hidle => exact (hidle hs).elim
  | mismatch i b d => exact ⟨mismatchFrame_cfgM x d, mismatchFrame_cfgLoss x d⟩
  | stay | error | begin_ | accept | clear => exact ⟨rfl, rfl⟩

/-- Settles O43: no move of a running engine writes its configuration or its stream. -/
theorem runningConfigurationFixed : Obligations.RunningConfigurationFixed := by
  intro i s t h
  obtain ⟨htx, hrx, -, -⟩ := exec_moved h
  exact ⟨htx.sameTransfer, hrx.sameConfig⟩

end Sys2Proof.Machine
end

section
/-! The segments of a running transfer partition its stream, and a written stream is never fetched in vain
(R63, R64, R163, R216). -/

namespace Sys2Proof.Machine

/-- The last segment of a stream that is not empty is not empty: the segments before it end below the stream's end. -/
theorem last_segment_begins_below {l m : Nat} (hm : 1 ≤ m) (hl : 1 ≤ l) : (max 1 ((l + m - 1) / m) - 1) * m < l := by
  have hq := Nat.div_mul_le_self (l + m - 1) m
  generalize (l + m - 1) / m = q at *
  by_cases h1 : q ≤ 1
  · rw [Nat.max_eq_left h1]
    omega
  · rw [Nat.max_eq_right (by omega), Nat.sub_mul]
    omega

theorem segLen_of_lt {x : TxEngine} {i : Nat} (h : i + 1 < x.nseg.toNat) : segLen x i = x.cfgM.toNat :=
  if_pos (by omega)

/-- What is left for the last segment (R63). -/
theorem segLen_last {x : TxEngine} {i : Nat} (h : i + 1 = x.nseg.toNat) :
    segLen x i = x.len.toNat - i * x.cfgM.toNat := by
  rw [segLen, if_neg (by omega), show x.nseg.toNat - 1 = i by omega]

theorem segOff_succ (x : TxEngine) (i : Nat) : segOff x (i + 1) = segOff x i + x.cfgM.toNat := Nat.succ_mul _ _

/-- The last segment begins within the stream, and below its end where the stream is not empty. -/
theorem segOff_last {cap : Nat} {x : TxEngine} (h : TransferOk cap x) (hs : x.state = .active) {i : Nat}
    (hi : i + 1 = x.nseg.toNat) : segOff x i ≤ x.len.toNat ∧ (1 ≤ x.len.toNat → segOff x i < x.len.toNat) := by
  obtain ⟨⟨hm, -⟩, hn⟩ := h hs
  obtain rfl : i = x.nseg.toNat - 1 := by omega
  rw [segOff, hn]
  exact ⟨(segmentCount_bounds hm).1, last_segment_begins_below hm⟩

/-- A segment before the last ends no later than the last begins. -/
theorem segOff_add_cfgM_le {x : TxEngine} {i j : Nat} (h : i < j) : segOff x i + x.cfgM.toNat ≤ segOff x j := by
  rw [← segOff_succ]
  exact Nat.mul_le_mul_right _ h

/-- Every segment of a running transfer ends within the stream. -/
theorem segment_ends_within {cap : Nat} {x : TxEngine} (h : TransferOk cap x) (hs : x.state = .active) {i : Nat}
    (hi : i < x.nseg.toNat) : segOff x i + segLen x i ≤ x.len.toNat := by
  obtain hlt | hlast : i + 1 < x.nseg.toNat ∨ i + 1 = x.nseg.toNat := by omega
  · have hend := (segOff_last h hs (i := x.nseg.toNat - 1) (by omega)).1
    have hle := segOff_add_cfgM_le (x := x) (show i < x.nseg.toNat - 1 by omega)
    rw [segLen_of_lt hlt]
    omega
  · have hoff := (segOff_last h hs hlast).1
    rw [segLen_last hlast]
    unfold segOff at *
    omega

/-- A segment of a running transfer is empty exactly if the stream is. -/
theorem segLen_eq_zero_iff {cap : Nat} {x : TxEngine} (h : TransferOk cap x) (hs : x.state = .active) {i : Nat}
    (hi : i < x.nseg.toNat) : segLen x i = 0 ↔ x.len = 0 := by
  have hm := (h hs).1.1
  have hend := segment_ends_within h hs hi
  rw [← BitVec.toNat_inj]
  show _ ↔ x.len.toNat = 0
  obtain hlt | hlast : i + 1 < x.nseg.toNat ∨ i + 1 = x.nseg.toNat := by omega
  · rw [segLen_of_lt hlt] at hend ⊢
    omega
  · have hoff := (segOff_last h hs hlast).2
    rw [segLen_last hlast] at hend ⊢
    unfold segOff at *
    omega

/-- Settles O54: the count `TX_START` stores makes every segment but the last full and the last hold what is left. -/
theorem segmentsPartitionStream : Obligations.SegmentsPartitionStream := by
  intro s hs ht
  have h := (transferInv_iff s).1 ht
  refine ⟨fun i hi => ⟨segLen_le_cfgM h hs i, segment_ends_within h hs hi, fun hlt => ?_, fun hlast => ?_,
    segLen_eq_zero_iff h hs hi⟩, Nat.zero_mul _⟩
  · rw [segLen_of_lt hlt]
    exact ⟨rfl, segOff_succ _ _⟩
  · rw [segLen_last hlast]
    exact Nat.add_sub_of_le (segOff_last h hs hlast).1

/-- The frame of every segment can be built where the stream is written (R64, R216). -/
theorem segmentFrame_ne_none {cap : Nat} {x : TxEngine} (h : TransferOk cap x) (hs : x.state = .active)
    (hw : ∀ a, a < x.len.toNat → cellRead x.buf a ≠ none) {i : Nat} (hi : i < x.nseg.toNat) :
    segmentFrame x i ≠ none := by
  rw [Ne, segmentFrame_eq_none_iff]
  rintro ⟨j, hj, hc⟩
  have hend := segment_ends_within h hs hi
  exact hw _ (by omega) hc

/-- So can the frames of the segments in flight (R52, R190). -/
theorem segmentFrames_ne_none {cap : Nat} {x : TxEngine} (h : TransferOk cap x) (hx : TxInv x) (hs : x.state = .active)
    (hw : ∀ a, a < x.len.toNat → cellRead x.buf a ≠ none) : segmentFrames x x.base.toNat (inFlight x) ≠ none := by
  rw [Ne, segmentFrames_eq_none_iff]
  rintro ⟨j, hj, hc⟩
  obtain ⟨hbn, -, hn, -⟩ := hx.window hs
  unfold inFlight at hj
  exact segmentFrame_ne_none h hs hw (by omega) hc

/-- Every operation that fetches no segment completes (R244). -/
theorem exec_completes_of_no_fetch {i : Instr} (hsend : i ≠ .txSend) (hburst : i ≠ .txTimeout) (s : State) :
    ∃ t, exec i s = .next t := by
  cases hi : usesTx i with
  | false =>
    obtain ⟨t, ht, -⟩ := txAfter_eq_some (txAfter_exec_of_not_usesTx hi s)
    exact ⟨t, ht⟩
  | true =>
    cases i with
    | txSend => exact (hsend rfl).elim
    | txTimeout => exact (hburst rfl).elim
    | txAckIn | txTick | ack | csrWrite => exact ⟨_, rfl⟩
    | txStart =>
      simp only [exec, execTxStart]
      split
      · exact ⟨_, rfl⟩
      · split <;> exact ⟨_, rfl⟩
    | txbufWrite =>
      simp only [exec, execTxbufWrite]
      split
      · exact ⟨_, rfl⟩
      · split <;> exact ⟨_, rfl⟩
    | _ => cases hi

/-- `TX_SEND` where its guard holds and its segment's frame is `f` (R166). -/
theorem exec_txSend_of_frame {s : State} {f : Frame} (he : txSendEnabled s.tx = true)
    (hf : segmentFrame s.tx s.tx.next.toNat = some f) :
    exec .txSend s = .next (s.onTx fun x => sendNext x f).complete := by
  simp only [exec, execTxSend, if_pos he, hf]

/-- `TX_SEND` where its guard holds and its segment has an unwritten cell (R64). -/
theorem exec_txSend_of_unwritten {s : State} (he : txSendEnabled s.tx = true)
    (hf : segmentFrame s.tx s.tx.next.toNat = none) : exec .txSend s = .fault .txBufUnwritten := by
  simp only [exec, execTxSend, if_pos he, hf]

/-- `TX_TIMEOUT` where its guard holds and its burst's frames are `fs` (R190). -/
theorem exec_txTimeout_of_frames {s : State} {fs : List Frame} (he : txTimeoutEnabled s.tx = true)
    (hf : segmentFrames s.tx s.tx.base.toNat (inFlight s.tx) = some fs) :
    exec .txTimeout s = .next (s.onTx fun x => retransmit x fs).complete := by
  simp only [exec, execTxTimeout, if_pos he, hf]

/-- Settles O39: the two operations that fetch a segment find its cells written, and every other one completes. -/
theorem loadedStreamNeverFaults : Obligations.LoadedStreamNeverFaults := by
  intro i s hx ht hw
  have hok := (transferInv_iff s).1 ht
  by_cases hsend : i = .txSend
  · subst hsend
    by_cases he : txSendEnabled s.tx = true
    · obtain ⟨hs, -, hn⟩ := (txSendEnabled_iff _).1 he
      obtain ⟨f, hf⟩ := Option.ne_none_iff_exists'.1 (segmentFrame_ne_none hok hs hw hn)
      exact ⟨_, exec_txSend_of_frame he hf⟩
    · exact ⟨s, exec_txSend_of_not_enabled he⟩
  by_cases hburst : i = .txTimeout
  · subst hburst
    by_cases he : txTimeoutEnabled s.tx = true
    · obtain ⟨hs, -, -⟩ := (txTimeoutEnabled_iff _).1 he
      obtain ⟨fs, hfs⟩ := Option.ne_none_iff_exists'.1 (segmentFrames_ne_none hok hx hs hw)
      exact ⟨_, exec_txTimeout_of_frames he hfs⟩
    · exact ⟨s, exec_txTimeout_of_not_enabled he⟩
  exact exec_completes_of_no_fetch hsend hburst s

end Sys2Proof.Machine
end

section
/-! One hop, end to end: the frame of a segment, sent by the TX engine and accepted by the RX engine (R63, R138, R140,
R166). -/

namespace Sys2Proof.Machine

/-- `TX_SEND` that completes where its guard holds has sent its segment's frame (R166). -/
theorem exec_txSend_next {s t : State} (he : txSendEnabled s.tx = true) (h : exec .txSend s = .next t) :
    ∃ f, segmentFrame s.tx s.tx.next.toNat = some f ∧ t = (s.onTx fun x => sendNext x f).complete := by
  cases hf : segmentFrame s.tx s.tx.next.toNat with
  | none => rw [exec_txSend_of_unwritten he hf] at h; cases h
  | some f => rw [exec_txSend_of_frame he hf] at h; cases h; exact ⟨f, rfl, rfl⟩

/-- The draw of a frame at or above the loss threshold passes (R201). -/
theorem shouldDrop_eq_false {r loss : Half} (h : loss.toNat ≤ r.toNat) : shouldDrop r loss = false :=
  decide_eq_false (Nat.not_lt.2 h)

/-- A data frame that is expected, no longer than `RX_CFG_M` and within the room is accepted (R139, R140). -/
theorem takeData_accept {s : State} {d : DataFrame} (hm : d.payload.length ≤ s.rx.cfgM.toNat)
    (he : d.seq = s.rx.expected) (hf : s.rx.expected ≠ 0xFFFF)
    (hc : s.rx.len.toNat + d.payload.length ≤ s.params.rxCap) : takeData s d = s.onRx fun x => acceptFrame x d := by
  rw [takeData, if_neg (Nat.not_lt.2 hm), if_pos ⟨he, hf⟩, if_neg (Nat.not_lt.2 hc)]

/-- In `AWAIT`, the bytes of a data frame whose draw passes are taken as that frame (R138, R247). -/
theorem frameArrives_frame {s : State} (d : DataFrame) {r : Half} (hs : s.rx.state = .await)
    (hr : s.rx.cfgLoss.toNat ≤ r.toNat) :
    frameArrives s (le16 d.seq ++ le16 d.sid ++ d.payload ++ trailer d.last) r = takeData s d := by
  rw [frameArrives, if_neg (not_not.2 hs), shouldDrop_eq_false hr, if_neg Bool.false_ne_true, decodeData_frame]

/-- The data frame of segment `i` with payload `p`, as the TX engine numbers and marks it (R166). -/
def segmentData (x : TxEngine) (i : Nat) (p : Frame) : DataFrame :=
  { seq := BitVec.ofNat 16 i, sid := x.cfgSid, last := decide (i = x.nseg.toNat - 1), payload := p }

/-- The frame built for a segment of a running transfer is the encoding of its number, `CFG_SID`, its cells and its final
mark (R63, R166). -/
theorem segmentFrame_bytes {cap : Nat} {x : TxEngine} (h : TransferOk cap x) (hs : x.state = .active) {i : Nat}
    {f : Frame} (hf : segmentFrame x i = some f) : ∃ p : Frame, p.length = segLen x i ∧
      (∀ j, j < segLen x i → p[j]? = cellRead x.buf (segOff x i + j)) ∧
      f = le16 (segmentData x i p).seq ++ le16 (segmentData x i p).sid ++ (segmentData x i p).payload ++
        trailer (segmentData x i p).last := by
  obtain ⟨p, hlen, hcells, rfl⟩ := (segmentFrame_eq_some_iff _ _ _).1 hf
  obtain ⟨⟨-, hm, -⟩, -⟩ := h hs
  have hfits : p.length ≤ 65529 := hlen ▸ (segLen_le_cfgM h hs i).trans hm
  exact ⟨p, hlen, fun j hj => (hcells j (hlen ▸ hj)).symm, by rw [encodeData_ok _ _ _ hfits]; rfl⟩

/-- Settles O55: the frame sent is the encoding of the segment, and the RX engine accepts exactly what it encodes. -/
theorem sentSegmentIsReassembled : Obligations.SentSegmentIsReassembled := by
  intro s t r ht he h u hawait hexp hcfg hdraw hroom hparams
  obtain ⟨hs, -, hn⟩ := (txSendEnabled_iff _).1 he
  have hok := (transferInv_iff s).1 ht
  obtain ⟨f, hf, rfl⟩ := exec_txSend_next he h
  obtain ⟨p, hlen, hcells, hbytes⟩ := segmentFrame_bytes hok hs hf
  rw [← hlen] at hroom hcells ⊢
  have hseq : (segmentData s.tx s.tx.next.toNat p).seq = u.rx.expected := by
    rw [hexp]
    exact (BitVec.ofNat_toNat 16 s.tx.next).trans (BitVec.setWidth_eq _)
  have hnotFull : u.rx.expected ≠ 0xFFFF := fun hfull => by
    have hlt := s.tx.nseg.isLt
    rw [← hexp, hfull] at hn
    simp only [BitVec.reduceToNat] at hn
    omega
  have haccept := takeData_accept (d := segmentData s.tx s.tx.next.toNat p)
    (show p.length ≤ u.rx.cfgM.toNat from hcfg ▸ hlen ▸ segLen_le_cfgM hok hs _) hseq hnotFull hroom
  refine ⟨f, _, sendNext_out s.tx f,
    by rw [exec, execRxFrameIn, hbytes, frameArrives_frame _ hawait hdraw, haccept], half_succ_of_ne hnotFull,
    acceptFrame_len_toNat hroom hparams.2.2.2, fun j hj => ?_, ?_, ?_⟩
  · show cellRead (memWrite u.rx.buf u.rx.len.toNat p) _ = _
    rw [cellRead_memWrite, if_pos (by omega), Nat.add_sub_cancel_left, hcells j hj]
  · show u.rx.out ++ [le16 u.rx.expected ++ le16 s.tx.cfgSid] = _
    rw [hexp]
  · show (if decide (s.tx.next.toNat = s.tx.nseg.toNat - 1) = true then RxState.done else u.rx.state) = .done ↔ _
    rw [hawait]
    have hlast : s.tx.next.toNat = s.tx.nseg.toNat - 1 ↔ s.tx.next.toNat + 1 = s.tx.nseg.toNat := by omega
    simp [hlast]

end Sys2Proof.Machine
end

section
/-! What a step takes from its inputs: an admitted record, and the acts of the channels (R73, R76, R95 to R98, R101). -/

namespace Sys2Proof.Machine

theorem step_of_run {s u : State} {i : Instr} (h : fetch s = .run i u) : step s = exec i u := by rw [step, h]

theorem step_of_idle {s u : State} (h : fetch s = .idle u) : step s = .next u := by rw [step, h]

theorem step_of_refuse {s : State} {e : Refusal} (h : fetch s = .refuse e) : step s = .refused e := by rw [step, h]

/-- The fetch takes the head of what is presented. -/
theorem fetch_of_inputs {s : State} {x : Input} {rest : List Input} (h : s.inputs = x :: rest) :
    fetch s = takeInput x { s with inputs := rest } := by
  rw [fetch, h]

/-- A record that decodes is admitted from the agent R96 names. -/
theorem takeRecord_of_decode {c : OpRecord} {i : Instr} (h : decodeOp c = .ok i) (s : State) :
    takeRecord (issuer i) c s = .run i s := by
  rw [takeRecord, h]
  exact if_pos rfl

/-- A record the decoder gives no instruction for is refused, whoever presents it. -/
theorem takeRecord_of_error {c : OpRecord} {e : DecodeError} (h : decodeOp c = .error e) (who : Agent) (s : State) :
    takeRecord who c s = .refuse (refusalOf e) := by
  rw [takeRecord, h]

/-- Settles O5: the record is the head of the inputs, and its agent is the one that may present the instruction. -/
theorem stepRunsRecord : Obligations.StepRunsRecord := by
  intro s who c rest i hin hd hw
  subst hw
  exact step_of_run ((fetch_of_inputs hin).trans (takeRecord_of_decode hd _))

/-! ## The records a channel presents -/

/-- A record of a listed op code whose byte sequences fit decodes to its row's instruction (R95, R96). -/
theorem decodeOp_of_wf {c : OpRecord} {row : OpRow} (h : opRow c.op = some row) (hw : (row.make c).wf = true) :
    decodeOp c = .ok (row.make c) := by
  rw [decodeOp, h]
  exact if_pos hw

/-- A record of a listed op code with a longer byte sequence decodes to nothing (R95, log entry 16). -/
theorem decodeOp_of_not_wf {c : OpRecord} {row : OpRow} (h : opRow c.op = some row) (hw : (row.make c).wf = false) :
    decodeOp c = .error .tooManyBytes := by
  rw [decodeOp, h]
  exact if_neg (ne_true_of_eq_false hw)

section
variable {f : Frame} (r : Half)

theorem decodeOp_rxFrameIn_of_fits (hl : f.length ≤ 65535) :
    decodeOp { op := 0x21, frame := f, r := r } = .ok (.rxFrameIn f r) :=
  decodeOp_of_wf (row := ⟨0x21, .forwardChannel, fun c => .rxFrameIn c.frame c.r⟩) rfl (decide_eq_true hl)

theorem decodeOp_rxFrameIn_of_long (hl : 65535 < f.length) :
    decodeOp { op := 0x21, frame := f, r := r } = .error .tooManyBytes :=
  decodeOp_of_not_wf (row := ⟨0x21, .forwardChannel, fun c => .rxFrameIn c.frame c.r⟩) rfl
    (decide_eq_false (Nat.not_le.2 hl))

theorem decodeOp_txAckIn_of_fits (hl : f.length ≤ 65535) :
    decodeOp { op := 0x12, frame := f, r := r } = .ok (.txAckIn f r) :=
  decodeOp_of_wf (row := ⟨0x12, .reverseChannel, fun c => .txAckIn c.frame c.r⟩) rfl (decide_eq_true hl)

theorem decodeOp_txAckIn_of_long (hl : 65535 < f.length) :
    decodeOp { op := 0x12, frame := f, r := r } = .error .tooManyBytes :=
  decodeOp_of_not_wf (row := ⟨0x12, .reverseChannel, fun c => .txAckIn c.frame c.r⟩) rfl
    (decide_eq_false (Nat.not_le.2 hl))

end

/-! ## The acts of a channel -/

/-- The deliveries the parameters allow (R76 (d), (e)). -/
theorem channelMay_iff (p : Params) (k : Nat) (keep : Bool) : channelMay p k keep = true ↔
    (k = 0 ∨ p.chReorder = true) ∧ (keep = false ∨ p.chDup = true) := by
  simp [channelMay]

/-- The deliveries they forbid. -/
theorem not_channelMay_iff (p : Params) (k : Nat) (keep : Bool) : ¬ channelMay p k keep = true ↔
    (0 < k ∧ p.chReorder = false) ∨ (keep = true ∧ p.chDup = false) := by
  rw [channelMay_iff, not_and_or, not_or, not_or, Bool.not_eq_false, Bool.not_eq_true, Bool.not_eq_true,
    Nat.pos_iff_ne_zero]

/-- A loss leaves the data on the port (log entry 6). -/
theorem intervened_portData (r : Option PortResult) :
    ((intervened r).bind fun p => portData p.value) = r.bind fun p => portData p.value := by
  rcases r with _ | ⟨status, value⟩
  · rfl
  · cases value <;> rfl

/-! ### The forward channel -/

section
variable {s : State} {k : Nat} {keep : Bool} {r : Half} {rest : List Input}

theorem step_forward_lose_empty (hin : s.inputs = .forward .lose :: rest) (hq : s.tx.out = []) :
    step s = .next { s with inputs := rest } :=
  step_of_idle ((fetch_of_inputs hin).trans (by simp only [takeInput, forwardStep, hq]))

/-- A loss takes the head away and intervenes between two reads (log entry 6). -/
theorem step_forward_lose {f : Frame} {q : List Frame} (hin : s.inputs = .forward .lose :: rest)
    (hq : s.tx.out = f :: q) : step s = .next { s with
      inputs := rest, tx := { s.tx with out := q }, result := intervened s.result } :=
  step_of_idle ((fetch_of_inputs hin).trans (by simp only [takeInput, forwardStep, hq]; rfl))

theorem step_forward_forbidden (hin : s.inputs = .forward (.deliver k keep r) :: rest)
    (h : ¬ channelMay s.params k keep = true) : step s = .refused .channelForbids :=
  step_of_refuse ((fetch_of_inputs hin).trans (if_neg h))

theorem step_forward_absent (hin : s.inputs = .forward (.deliver k keep r) :: rest)
    (h : channelMay s.params k keep = true) (hq : s.tx.out.length ≤ k) : step s = .next { s with inputs := rest } :=
  step_of_idle ((fetch_of_inputs hin).trans (by
    simp only [takeInput, forwardStep, if_pos h, List.getElem?_eq_none hq]))

/-- An allowed delivery presents the frame as a record, and takes it from `TX_OUT` unless it is kept. -/
theorem fetch_forward_deliver {f : Frame} (hin : s.inputs = .forward (.deliver k keep r) :: rest)
    (h : channelMay s.params k keep = true) (hf : s.tx.out[k]? = some f) :
    fetch s = takeRecord .forwardChannel { op := 0x21, frame := f, r := r } { s with
      inputs := rest, tx := { s.tx with out := if keep then s.tx.out else s.tx.out.eraseIdx k } } :=
  (fetch_of_inputs hin).trans (by simp only [takeInput, forwardStep, if_pos h, hf]; rfl)

end

/-! ### The reverse channel -/

section
variable {s : State} {k : Nat} {keep : Bool} {r : Half} {rest : List Input}

theorem step_reverse_lose_empty (hin : s.inputs = .reverse .lose :: rest) (hq : s.rx.out = []) :
    step s = .next { s with inputs := rest } :=
  step_of_idle ((fetch_of_inputs hin).trans (by simp only [takeInput, reverseStep, hq]))

/-- A loss takes the head away and intervenes between two reads (log entry 6). -/
theorem step_reverse_lose {f : Frame} {q : List Frame} (hin : s.inputs = .reverse .lose :: rest)
    (hq : s.rx.out = f :: q) : step s = .next { s with
      inputs := rest, rx := { s.rx with out := q }, result := intervened s.result } :=
  step_of_idle ((fetch_of_inputs hin).trans (by simp only [takeInput, reverseStep, hq]; rfl))

theorem step_reverse_forbidden (hin : s.inputs = .reverse (.deliver k keep r) :: rest)
    (h : ¬ channelMay s.params k keep = true) : step s = .refused .channelForbids :=
  step_of_refuse ((fetch_of_inputs hin).trans (if_neg h))

theorem step_reverse_absent (hin : s.inputs = .reverse (.deliver k keep r) :: rest)
    (h : channelMay s.params k keep = true) (hq : s.rx.out.length ≤ k) : step s = .next { s with inputs := rest } :=
  step_of_idle ((fetch_of_inputs hin).trans (by
    simp only [takeInput, reverseStep, if_pos h, List.getElem?_eq_none hq]))

/-- An allowed delivery presents the frame as a record, and takes it from `RX_OUT` unless it is kept. -/
theorem fetch_reverse_deliver {f : Frame} (hin : s.inputs = .reverse (.deliver k keep r) :: rest)
    (h : channelMay s.params k keep = true) (hf : s.rx.out[k]? = some f) :
    fetch s = takeRecord .reverseChannel { op := 0x12, frame := f, r := r } { s with
      inputs := rest, rx := { s.rx with out := if keep then s.rx.out else s.rx.out.eraseIdx k } } :=
  (fetch_of_inputs hin).trans (by simp only [takeInput, reverseStep, if_pos h, hf]; rfl)

end

/-- Settles O36: each act of a channel by its own lemma; a delivered frame is a record that decodes exactly if it fits. -/
theorem channelSteps : Obligations.ChannelSteps := by
  refine ⟨fun s rest hin => ⟨step_forward_lose_empty hin, fun f q => step_forward_lose hin⟩,
    fun s rest hin => ⟨step_reverse_lose_empty hin, fun f q => step_reverse_lose hin⟩, intervened_portData,
    fun s k keep r rest hin => ⟨fun hno => step_forward_forbidden hin ((not_channelMay_iff _ _ _).2 hno),
      fun hk hkeep => ?_⟩,
    fun s k keep r rest hin => ⟨fun hno => step_reverse_forbidden hin ((not_channelMay_iff _ _ _).2 hno),
      fun hk hkeep => ?_⟩⟩
  · have hmay := (channelMay_iff s.params k keep).2 ⟨hk, hkeep⟩
    refine ⟨step_forward_absent hin hmay, fun f hf => ?_⟩
    have hfetch := fetch_forward_deliver hin hmay hf
    exact ⟨fun hl => step_of_run (hfetch.trans (takeRecord_of_decode (decodeOp_rxFrameIn_of_fits r hl) _)),
      fun hl => step_of_refuse (hfetch.trans (takeRecord_of_error (decodeOp_rxFrameIn_of_long r hl) _ _))⟩
  · have hmay := (channelMay_iff s.params k keep).2 ⟨hk, hkeep⟩
    refine ⟨step_reverse_absent hin hmay, fun f hf => ?_⟩
    have hfetch := fetch_reverse_deliver hin hmay hf
    exact ⟨fun hl => step_of_run (hfetch.trans (takeRecord_of_decode (decodeOp_txAckIn_of_fits r hl) _)),
      fun hl => step_of_refuse (hfetch.trans (takeRecord_of_error (decodeOp_txAckIn_of_long r hl) _ _))⟩

end Sys2Proof.Machine
end

section
/-! The decoder and the encoder are inverse, on the records of the operation port and on whole datagrams (R86, R89, R91,
R95, R96, R99, R103, R122). -/

namespace Sys2Proof

/-- A record of a listed op code decodes to the instruction its row makes, where that is well formed (R95, R96). -/
theorem decode_port_of_row {c : OpRecord} {i : Instr} (h : (opRow c.op).map (·.make c) = some i) (hw : i.WellFormed) :
    decode (.port c) = .ok i := by
  obtain ⟨row, hr, rfl⟩ := Option.map_eq_some_iff.1 h
  exact Machine.decodeOp_of_wf hr hw

/-- The frame instruction of a decoded data frame: its row is the one of its trailer (R88, R103). -/
def frameInstr (d : DataFrame) : Instr :=
  if d.last then .dataLast d.seq d.sid d.payload else .data d.seq d.sid d.payload

theorem frameInstr_wf (d : DataFrame) : (frameInstr d).wf = fitsFrame d.payload := by
  obtain ⟨seq, sid, last, p⟩ := d
  cases last <;> rfl

/-- Either row is encoded by `ENC_DATA` of its fields (R86). -/
theorem encode_frameInstr (d : DataFrame) :
    encode (frameInstr d) = .datagram .rx (encodeData d.seq d.sid d.last d.payload).2 := by
  obtain ⟨seq, sid, last, p⟩ := d
  cases last <;> rfl

/-- What the RX engine's input reads as a frame instruction (R92, R103). -/
theorem decodeDatagram_rx_iff {b : Frame} {i : Instr} : decodeDatagram .rx b = .ok i ↔
    b.length ≤ 65535 ∧ ∃ d, decodeData b = .ok d ∧ frameInstr d = i := by
  by_cases hl : b.length ≤ 65535
  · rw [decodeDatagram, if_neg (Nat.not_lt.2 hl)]
    cases decodeData b with
    | error e => simp
    | ok d => simp [hl, frameInstr]
  · rw [decodeDatagram, if_pos (Nat.not_le.1 hl)]
    simp [hl]

/-- What the TX engine's input reads as a frame instruction (R89, R92, R103). -/
theorem decodeDatagram_tx_iff {b : Frame} {i : Instr} : decodeDatagram .tx b = .ok i ↔
    b.length ≤ 65535 ∧ ∃ a, decodeAck b = .ok a ∧ .ack a.ackNum a.sid = i := by
  by_cases hl : b.length ≤ 65535
  · rw [decodeDatagram, if_neg (Nat.not_lt.2 hl)]
    cases decodeAck b with
    | error e => simp
    | ok a => simp [hl]
  · rw [decodeDatagram, if_pos (Nat.not_le.1 hl)]
    simp [hl]

/-- The bytes of a data frame (R86) are longer than its payload by header and trailer (R87). -/
theorem dataFrame_length (seq sid : Half) (last : Bool) (p : Frame) :
    (le16 seq ++ le16 sid ++ p ++ trailer last).length = p.length + 6 := by
  simp only [List.length_append, le16_length, trailer_length]
  omega

/-- A well-formed frame instruction is read back from its bytes at the RX engine. -/
theorem decode_encode_frameInstr {d : DataFrame} (h : (frameInstr d).WellFormed) :
    decode (encode (frameInstr d)) = .ok (frameInstr d) := by
  have hp : d.payload.length ≤ 65529 := of_decide_eq_true ((frameInstr_wf d).symm.trans h)
  rw [encode_frameInstr, encodeData_ok _ _ _ hp]
  exact decodeDatagram_rx_iff.2 ⟨by rw [dataFrame_length]; omega, d, decodeData_frame _ _ _ _, rfl⟩

/-- Settles O1: a record is read by the row of its op code, a frame by its fields. -/
theorem decodeOfEncode : Obligations.DecodeOfEncode := by
  intro i h
  cases i with
  | encData | decData | encAck | decAck | txStart | txSend | txAckIn | txTick | txTimeout | rxStart | rxFrameIn
  | csrRead | csrWrite | txbufWrite | rxbufRead | statsSnapshot => exact decode_port_of_row rfl h
  | data seq sid p => exact decode_encode_frameInstr (d := ⟨seq, sid, false, p⟩) h
  | dataLast seq sid p => exact decode_encode_frameInstr (d := ⟨seq, sid, true, p⟩) h
  | ack k sid => exact decodeDatagram_tx_iff.2 ⟨by simp, ⟨k, sid⟩, decodeAck_frame k sid, rfl⟩

/-- Settles O2: bytes that decode are the frame of their fields, and its payload is six bytes shorter. -/
theorem datagramEncodingUnique : Obligations.DatagramEncodingUnique := by
  intro e b i h
  cases e with
  | rx =>
    obtain ⟨hl, d, hd, rfl⟩ := decodeDatagram_rx_iff.1 h
    have hb := decodeData_ok hd
    have hp : d.payload.length ≤ 65529 := by
      rw [hb, dataFrame_length] at hl
      omega
    refine ⟨?_, (frameInstr_wf d).trans (decide_eq_true hp)⟩
    rw [encode_frameInstr, encodeData_ok _ _ _ hp, ← hb]
  | tx =>
    obtain ⟨-, a, ha, rfl⟩ := decodeDatagram_tx_iff.1 h
    exact ⟨congrArg (Encoded.datagram .tx) (decodeAck_ok ha).symm, rfl⟩

/-- Settles O4: each word is the encoding of its instruction, so `decodeOfEncode` reads it back. -/
theorem wordsOfTheSpec : Obligations.WordsOfTheSpec :=
  ⟨decodeOfEncode (.encData 0x1234 0xBEEF true []) rfl, decodeOfEncode .txStart rfl,
    decodeOfEncode (.txAckIn [0x00, 0x00, 0x02, 0x01] 0x00FF) rfl, decodeOfEncode .txTimeout rfl,
    decodeOfEncode .rxStart rfl, decodeOfEncode (.csrWrite 0x03 0x00000004) rfl,
    decodeOfEncode (.txbufWrite 0x00000009 0x0000004A) rfl,
    decodeOfEncode (.data 0x0000 0x0102 [0x41, 0x42, 0x43, 0x44]) rfl,
    decodeOfEncode (.dataLast 0x0002 0x0102 [0x49, 0x4A]) rfl, decodeOfEncode (.ack 0x0001 0x0102) rfl⟩

end Sys2Proof
end

section
/-! The records the fetch refuses: a reserved op code, and an agent other than the one the map names (R96 to R98). -/

namespace Sys2Proof.Machine

/-- The reserved ranges of the op code map (R97). -/
abbrev ReservedRange (op : Byte) : Prop :=
  op = 0x00 ∨ (0x05 ≤ op.toNat ∧ op.toNat ≤ 0x0F) ∨ (0x15 ≤ op.toNat ∧ op.toNat ≤ 0x1F) ∨
    (0x22 ≤ op.toNat ∧ op.toNat ≤ 0x2F) ∨ 0x35 ≤ op.toNat

/-- No row of the op code map has a reserved code. -/
theorem opTable_not_reserved : ∀ row ∈ opTable, ¬ ReservedRange row.op := by decide

theorem opRow_of_reserved {op : Byte} (h : ReservedRange op) : opRow op = none :=
  List.find?_eq_none.2 fun row hr heq => opTable_not_reserved row hr (eq_of_beq heq ▸ h)

/-- Settles O7: a reserved code has no row, so the record decodes to nothing, whoever presents it. -/
theorem reservedOpRefused : Obligations.ReservedOpRefused := by
  intro s who c rest hin hop
  have hd : decodeOp c = .error (.reservedOp c.op) := by rw [decodeOp, opRow_of_reserved hop]
  exact step_of_refuse ((fetch_of_inputs hin).trans (takeRecord_of_error hd who _))

/-- The instruction a row makes has the row's agent (R96). -/
theorem issuer_make {row : OpRow} (hr : row ∈ opTable) (c : OpRecord) : issuer (row.make c) = row.who := by
  simp only [opTable, codecRows, txRows, rxRows, hostRows, List.cons_append, List.nil_append, List.mem_cons,
    List.not_mem_nil, or_false] at hr
  rcases hr with rfl | rfl | rfl | rfl | rfl | rfl | rfl | rfl | rfl | rfl | rfl | rfl | rfl | rfl | rfl | rfl <;> rfl

/-- The column "issued by" of the op code map, op code by op code (R96). -/
theorem opTable_who : ∀ row ∈ opTable,
    (row.op ∈ [0x11, 0x14] → row.who = .txEngine) ∧ (row.op = 0x12 → row.who = .reverseChannel) ∧
    (row.op = 0x13 → row.who = .tickSource) ∧ (row.op = 0x21 → row.who = .forwardChannel) ∧
    (row.op ∉ [0x11, 0x12, 0x13, 0x14, 0x21] → row.who = .host) := by decide

/-- A record that decodes is refused from every other agent (R98). -/
theorem takeRecord_of_other_agent {who : Agent} {c : OpRecord} {i : Instr} (h : decodeOp c = .ok i)
    (hw : issuer i ≠ who) (s : State) : takeRecord who c s = .refuse (.wrongAgent who c.op) := by
  rw [takeRecord, h]
  exact if_neg hw

/-- Settles O8: the agent of each op code is that of its row, and the record comes from another. -/
theorem wrongAgentRefused : Obligations.WrongAgentRefused := by
  intro s who c rest i hin hd hwho
  obtain ⟨row, hr, hop, rfl⟩ := decodeOp_row hd
  obtain ⟨htx, hrev, htick, hfwd, hhost⟩ := opTable_who row hr
  rw [hop] at htx hrev htick hfwd hhost
  have hother : row.who ≠ who := by
    obtain ⟨h, hne⟩ | ⟨h, hne⟩ | ⟨h, hne⟩ | ⟨h, hne⟩ | ⟨h, hne⟩ := hwho
    · exact htx h ▸ hne.symm
    · exact hrev h ▸ hne.symm
    · exact htick h ▸ hne.symm
    · exact hfwd h ▸ hne.symm
    · exact hhost h ▸ hne.symm
  exact step_of_refuse ((fetch_of_inputs hin).trans
    (takeRecord_of_other_agent hd (issuer_make hr c ▸ hother) _))

end Sys2Proof.Machine
end

section
/-! Steps that take no record: an arriving datagram, and the TX engine's own operations (R92, R98, R99, R103, R246). -/

namespace Sys2Proof.Machine

/-- A frame of the engine's kind is its frame instruction (R92, R103). -/
theorem arrive_of_decode {e : Engine} {b : Frame} {i : Instr} (h : decodeDatagram e b = .ok i) (s : State) :
    arrive e b s = .run i s := by
  rw [arrive, h]

/-- Bytes that are no frame of the engine's kind are presented to its arrival operation (log entry 13). -/
theorem arrive_of_malformed {e : Engine} {b : Frame} {why : CodecStatus}
    (h : decodeDatagram e b = .error (.malformed why)) (s : State) :
    arrive e b s = .run (malformedArrival e b (Config.draw s.fresh)) s.useFresh := by
  rw [arrive, h]

/-- Settles O6: the datagram is the head of the inputs, and `arrive` reads it as the decoder does. -/
theorem stepRunsDatagram : Obligations.StepRunsDatagram := by
  intro s e b rest hin
  refine ⟨fun i hd => step_of_run ((fetch_of_inputs hin).trans (arrive_of_decode hd _)),
    fun why hd => ⟨Config.draw s.fresh, ?_⟩⟩
  have hrun := step_of_run ((fetch_of_inputs hin).trans (arrive_of_malformed hd _))
  cases e <;> exact hrun

/-- With nothing presented the TX engine may take a step of its own (R98). -/
theorem fetch_of_no_inputs {s : State} (h : s.inputs = []) : fetch s = ownStep s := by
  rw [fetch, h]

/-- Settles O37: the branches of `ownStep`, by the two guards. -/
theorem ownSteps : Obligations.OwnSteps := by
  intro s hin
  have hfetch := fetch_of_no_inputs hin
  refine ⟨fun hsend htime => step_of_run (i := .txSend) (hfetch.trans ?_),
    fun hsend htime => step_of_run (i := .txTimeout) (hfetch.trans ?_), fun hsend htime => ?_,
    fun hsend htime => step_of_idle (hfetch.trans ?_)⟩
  · simp [ownStep, hsend, htime]
  · simp [ownStep, hsend, htime]
  · cases hpick : Config.picksTimeout s.fresh with
    | false => exact .inl (step_of_run (hfetch.trans (by simp [ownStep, hsend, htime, hpick, State.useFresh])))
    | true => exact .inr (step_of_run (hfetch.trans (by simp [ownStep, hsend, htime, hpick, State.useFresh])))
  · simp [ownStep, hsend, htime]

end Sys2Proof.Machine
end

section
/-! Frames that arrive as datagrams: the frame instructions are the arrival operations of their bytes, with the random
source's draw (R86, R89, R103, R138, R167; log entries 7 and 13). -/

namespace Sys2Proof.Machine

/-! ## Data frames -/

/-- Both data rows are `RX_FRAME_IN` of the frame's bytes. -/
theorem exec_frameInstr {d : DataFrame} (h : d.payload.length ≤ 65529) (s : State) : exec (frameInstr d) s =
    exec (.rxFrameIn (le16 d.seq ++ le16 d.sid ++ d.payload ++ trailer d.last) (Config.draw s.fresh)) s.useFresh := by
  have harrive : exec (frameInstr d) s =
      exec (.rxFrameIn (encodeData d.seq d.sid d.last d.payload).2 (Config.draw s.fresh)) s.useFresh := by
    obtain ⟨seq, sid, last, p⟩ := d
    cases last <;> rfl
  rw [harrive, encodeData_ok _ _ _ h]

/-- `RX_FRAME_IN` of a frame that is expected, fits and has room (R138 to R140). -/
theorem exec_rxFrameIn_accept {s : State} (d : DataFrame) {r : Half} (hs : s.rx.state = .await)
    (hr : s.rx.cfgLoss.toNat ≤ r.toNat) (hm : d.payload.length ≤ s.rx.cfgM.toNat) (he : d.seq = s.rx.expected)
    (hf : s.rx.expected ≠ 0xFFFF) (hc : s.rx.len.toNat + d.payload.length ≤ s.params.rxCap) :
    exec (.rxFrameIn (le16 d.seq ++ le16 d.sid ++ d.payload ++ trailer d.last) r) s =
      .next (s.onRx fun x => acceptFrame x d).complete := by
  rw [exec, execRxFrameIn, frameArrives_frame d hs hr, takeData_accept hm he hf hc]

/-- Settles O26: the frame instruction is `RX_FRAME_IN` with the free draw, and no draw is below a loss of zero. -/
theorem dataFrameArrives : Obligations.DataFrameArrives := by
  refine ⟨fun s seq sid p hp => ⟨⟨_, exec_frameInstr (d := ⟨seq, sid, false, p⟩) hp s⟩,
    ⟨_, exec_frameInstr (d := ⟨seq, sid, true, p⟩) hp s⟩⟩, ?_⟩
  intro s seq sid last p hs hloss hp hm he hf hc
  subst he
  refine ⟨memWrite s.rx.buf s.rx.len.toNat p, cellRead_memWrite p _ _, ?_⟩
  have hdraw : s.rx.cfgLoss.toNat ≤ (Config.draw s.fresh).toNat := by
    rw [hloss]
    exact Nat.zero_le _
  have hlen : BitVec.ofNat 32 (s.rx.len.toNat + p.length) = s.rx.len + BitVec.ofNat 32 p.length := by
    rw [BitVec.ofNat_add, BitVec.ofNat_toNat, BitVec.setWidth_eq]
  rw [hlen, ← hs]
  exact (exec_frameInstr (d := ⟨_, sid, last, p⟩) hp s).trans
    (exec_rxFrameIn_accept (s := s.useFresh) _ hs hdraw hm rfl hf hc)

/-! ## Ack frames -/

/-- The two bytes of a field, the low byte first (R66). -/
theorem le16_bytes (v : Half) : le16 v = [v.extractLsb' 0 8, v.extractLsb' 8 8] := by
  rw [le16, BitVec.setWidth_eq_extractLsb' (by decide), BitVec.setWidth_ushiftRight_eq_extractLsb]

/-- The four bytes of an ack frame (R89). -/
theorem encodeAck_bytes (k sid : Half) :
    encodeAck k sid = [k.extractLsb' 0 8, k.extractLsb' 8 8, sid.extractLsb' 0 8, sid.extractLsb' 8 8] := by
  rw [encodeAck, le16_bytes, le16_bytes, List.cons_append, List.cons_append, List.nil_append]

/-- The row `ACK` is `TX_ACK_IN` of the frame's bytes. -/
theorem exec_ack (k sid : Half) (s : State) :
    exec (.ack k sid) s = exec (.txAckIn (encodeAck k sid) (Config.draw s.fresh)) s.useFresh := rfl

/-- In `ACTIVE`, a duplicate or advancing ack that is not lost moves the window (R167 to R169). -/
theorem ackArrives_advance {x : TxEngine} {k r : Half} (sid : Half) (hs : x.state = .active)
    (hl : x.ctrl.getLsbD 0 = false ∨ x.cfgLoss.toNat ≤ r.toNat) (hn : k.toNat < x.next.toNat)
    (hb : x.base.toNat ≤ k.toNat + 1) : ackArrives x (encodeAck k sid) r = advanceWindow x k := by
  have hpass : ¬ (ackLossEn x && shouldDrop r x.cfgLoss) = true := by
    rw [Bool.and_eq_true, not_and_or, Bool.not_eq_true, Bool.not_eq_true]
    exact hl.imp_right shouldDrop_eq_false
  rw [ackArrives, if_neg (not_not.2 hs), if_neg hpass, encodeAck, decodeAck_frame]
  exact (if_neg (Nat.not_le.2 hn)).trans (if_neg (Nat.not_lt.2 hb))

/-- Settles O19: the row `ACK` is `TX_ACK_IN` with the free draw, which decides nothing where the loss is off. -/
theorem ackFrameArrives : Obligations.AckFrameArrives := by
  refine ⟨fun s k sid => ⟨_, encodeAck_bytes k sid ▸ exec_ack k sid s⟩, fun s k sid hs hl hn hb => ?_⟩
  have hadvance : ackArrives s.tx (encodeAck k sid) (Config.draw s.fresh) = _ :=
    (ackArrives_advance sid hs (.inl hl) hn hb).trans (advanceWindow_eq s.tx k)
  rw [exec_ack, ← hs]
  simp only [exec, execTxAckIn, State.onTx, State.useFresh, hadvance]
  rfl

end Sys2Proof.Machine
end

section
/-! The operations of the frame codec: what each returns, that nothing but the result record changes, and that encoding and
decoding are inverse (R95, R117 to R120, R122). -/

namespace Sys2Proof

/-- `DEC_DATA` below the six bytes of a header and a trailer (R118). -/
theorem decodeData_short {b : Frame} (h : b.length < 6) : decodeData b = .error .malShort := if_pos h

/-- A failing status of `DEC_DATA` is one of the two of R118, so never `OK`. -/
theorem decodeData_error {b : Frame} {e : CodecStatus} (h : decodeData b = .error e) :
    e = .malShort ∨ e = .malTrailer := by
  unfold decodeData at h
  split at h
  · exact .inl (Except.error.inj h).symm
  · split at h
    · exact .inr (Except.error.inj h).symm
    · cases h

/-- `DEC_ACK` of any length but four (R120). -/
theorem decodeAck_badLength {b : Frame} (h : b.length ≠ 4) : decodeAck b = .error .malAckLen := if_pos h

end Sys2Proof

namespace Sys2Proof.Machine

/-! ## What each operation answers -/

/-- `ENC_DATA` of a payload that fits (R117). -/
theorem exec_encData_ok (seq sid : Half) (last : Bool) {p : Frame} (h : p.length ≤ 65529) (s : State) :
    exec (.encData seq sid last p) s = .next (s.answer 0 (.frame (le16 seq ++ le16 sid ++ p ++ trailer last))) := by
  rw [exec, execEncData, encodeData_ok seq sid last h]
  rfl

/-- `ENC_DATA` of a payload that does not fit (R117). -/
theorem exec_encData_tooLong (seq sid : Half) (last : Bool) {p : Frame} (h : 65529 < p.length) (s : State) :
    exec (.encData seq sid last p) s = .next (s.answer 4 (.frame [])) := by
  have hlong : encodeData seq sid last p = (.tooLong, []) := if_pos h
  rw [exec, execEncData, hlong]
  rfl

/-- `DEC_DATA` of a sequence that decodes (R118). -/
theorem exec_decData_ok {b : Frame} {d : DataFrame} (h : decodeData b = .ok d) (s : State) :
    exec (.decData b) s = .next (s.answer 0 (.dataFrame d)) := by
  rw [exec, execDecData, h]
  rfl

/-- `DEC_DATA` of a sequence that does not decode (R118). -/
theorem exec_decData_error {b : Frame} {e : CodecStatus} (h : decodeData b = .error e) (s : State) :
    exec (.decData b) s = .next (s.answer (statusCode e) (.dataFrame ⟨0, 0, false, []⟩)) := by
  rw [exec, execDecData, h]

/-- `ENC_ACK` (R119). -/
theorem exec_encAck (k sid : Half) (s : State) :
    exec (.encAck k sid) s = .next (s.answer 0 (.frame (encodeAck k sid))) := rfl

/-- `DEC_ACK` of a sequence that decodes (R120). -/
theorem exec_decAck_ok {b : Frame} {a : AckFrame} (h : decodeAck b = .ok a) (s : State) :
    exec (.decAck b) s = .next (s.answer 0 (.ackFrame a)) := by
  rw [exec, execDecAck, h]
  rfl

/-- `DEC_ACK` of a sequence that does not decode (R120). -/
theorem exec_decAck_error {b : Frame} {e : CodecStatus} (h : decodeAck b = .error e) (s : State) :
    exec (.decAck b) s = .next (s.answer (statusCode e) (.ackFrame ⟨0, 0⟩)) := by
  rw [exec, execDecAck, h]

/-- Status `OK` on the port means the sequence decodes to the fields returned. -/
theorem decodeData_of_exec {s t : State} {b : Frame} {d : DataFrame} (he : exec (.decData b) s = .next t)
    (hr : t.result = some ⟨0, .dataFrame d⟩) : decodeData b = .ok d := by
  cases hd : decodeData b with
  | ok d' =>
    rw [exec_decData_ok hd] at he
    cases he
    cases hr
    rfl
  | error e =>
    rw [exec_decData_error hd] at he
    cases he
    have hstatus : statusCode e = 0 := congrArg PortResult.status (Option.some.inj hr)
    rcases decodeData_error hd with rfl | rfl <;> cases hstatus

/-- A sequence a record can carry that decodes has a payload that `ENC_DATA` accepts. -/
theorem payload_length_of_decodeData {b : Frame} {d : DataFrame} (h : decodeData b = .ok d) (hb : b.length ≤ 65535) :
    d.payload.length ≤ 65529 := by
  rw [decodeData_ok h] at hb
  simp only [List.length_append, le16_length, trailer_length] at hb
  omega

/-! ## The obligations -/

/-- Settles O3: each operation answers as the codec does, and `decodeData_ok` and `decodeAck_ok` make every decoded sequence
the frame of its fields. -/
theorem codecRoundTrips : Obligations.CodecRoundTrips := by
  refine ⟨fun s seq sid last p hp => ?_, fun s t b d hb he hr => ?_, fun s k sid => ?_, fun s b hb => ?_⟩
  · exact ⟨_, _, _, exec_encData_ok seq sid last hp s, rfl, exec_decData_ok (decodeData_frame seq sid last p) _, rfl⟩
  · have hd := decodeData_of_exec he hr
    refine ⟨_, exec_encData_ok d.seq d.sid d.last (payload_length_of_decodeData hd hb) t, ?_⟩
    rw [← decodeData_ok hd]
    rfl
  · exact ⟨_, _, _, exec_encAck k sid s, rfl, exec_decAck_ok (decodeAck_frame k sid) _, rfl⟩
  · obtain ⟨b0, b1, b2, b3, rfl⟩ := ack_split hb
    have hd := decodeAck_four b0 b1 b2 b3
    refine ⟨_, _, _, exec_decAck_ok hd s, rfl, exec_encAck _ _ _, ?_⟩
    rw [encodeAck, ← decodeAck_ok hd]
    rfl

/-- Settles O9: `ENC_DATA` either way of its length check, with the fields written out byte by byte. -/
theorem encDataResult : Obligations.EncDataResult := by
  refine fun s seq sid last p => ⟨fun h => ?_, fun h => exec_encData_tooLong seq sid last h s⟩
  rw [exec_encData_ok seq sid last h, le16_bytes, le16_bytes]
  rfl

/-- Settles O10: `DEC_DATA` along its two checks; the trailer's two bytes decide the second (`trailerLast_pair`). -/
theorem decDataResult : Obligations.DecDataResult := by
  refine fun s b => ⟨fun h => exec_decData_error (decodeData_short h) s, ?_⟩
  rintro b0 b1 b2 b3 t0 t1 p rfl
  have hd := decodeData_split b0 b1 b2 b3 t0 t1 p
  rw [trailerLast_pair] at hd
  by_cases hzero : t0 = 0x00 ∧ t1 = 0x00
  · rw [if_pos hzero] at hd ⊢
    exact exec_decData_ok hd s
  · by_cases hones : t0 = 0xFF ∧ t1 = 0xFF
    · rw [if_neg hzero, if_pos hones] at hd ⊢
      exact exec_decData_ok hd s
    · rw [if_neg hzero, if_neg hones] at hd ⊢
      exact exec_decData_error hd s

/-- Settles O11: `ENC_ACK` is total, and `DEC_ACK` fails by its length check only. -/
theorem ackCodecResults : Obligations.AckCodecResults := by
  refine ⟨fun s k sid => ?_, fun s b0 b1 b2 b3 => exec_decAck_ok (decodeAck_four b0 b1 b2 b3) s,
    fun s b h => exec_decAck_error (decodeAck_badLength h) s⟩
  rw [exec_encAck, encodeAck_bytes]
  rfl

end Sys2Proof.Machine
end

section
/-! The operations of the RX engine: what `RX_START` and `RX_FRAME_IN` answer in each of their cases, and that a frame
already accepted changes nothing when it comes again (R137 to R148, R202, R203, R237, R247). -/

namespace Sys2Proof.Machine

/-! ## `RX_START` -/

section
variable {s : State}

theorem exec_rxStart_busy (hs : s.rx.state = .await) : exec .rxStart s = .next (raiseRx s .busy 0x01).complete :=
  if_pos hs

theorem exec_rxStart_illegal (hs : s.rx.state ≠ .await) (hm : s.rx.cfgM.toNat = 0 ∨ 65529 < s.rx.cfgM.toNat) :
    exec .rxStart s = .next (raiseRx s .config 0x01).complete :=
  (if_neg hs).trans (if_pos hm)

theorem exec_rxStart_begins (hs : s.rx.state ≠ .await) (hm : 1 ≤ s.rx.cfgM.toNat ∧ s.rx.cfgM.toNat ≤ 65529) :
    exec .rxStart s = .next (s.onRx beginReceive).complete :=
  (if_neg hs).trans (if_neg (by rw [maxPayload]; omega))

end

/-- Settles O21: the three branches of `RX_START`; the recorded value is `DETAIL << 8 | CODE` (R240). -/
theorem rxStartEffect : Obligations.RxStartEffect :=
  fun _ => ⟨fun hs hlo hhi => exec_rxStart_begins hs ⟨hlo, hhi⟩, exec_rxStart_busy,
    fun hs hm => exec_rxStart_illegal hs (hm.imp_left fun h => congrArg BitVec.toNat h)⟩

/-! ## A frame that is accepted, mismatched or dropped -/

/-- Settles O22: the accept action, its payload read back by `cellRead_memWrite`. -/
theorem frameAccepted : Obligations.FrameAccepted := by
  intro s seq sid r last p hs hr hm he hf hc
  subst he
  refine ⟨memWrite s.rx.buf s.rx.len.toNat p, cellRead_memWrite p _ _, ?_⟩
  have hlen : BitVec.ofNat 32 (s.rx.len.toNat + p.length) = s.rx.len + BitVec.ofNat 32 p.length := by
    rw [BitVec.ofNat_add, BitVec.ofNat_toNat, BitVec.setWidth_eq]
  rw [hlen, ← hs]
  exact exec_rxFrameIn_accept ⟨_, sid, last, p⟩ hs hr hm rfl hf hc

/-- A data frame that fits `RX_CFG_M` and is not the next one is answered by the mismatch action (R139, R141). -/
theorem takeData_mismatch {s : State} {d : DataFrame} (hm : d.payload.length ≤ s.rx.cfgM.toNat)
    (he : d.seq ≠ s.rx.expected ∨ s.rx.expected = 0xFFFF) : takeData s d = s.onRx fun x => mismatchFrame x d := by
  rw [takeData, if_neg (Nat.not_lt.2 hm), if_neg (by rwa [not_and_or, not_not])]

/-- `RX_FRAME_IN` of a frame that fits and is not the next one (R138, R139, R141). -/
theorem exec_rxFrameIn_mismatch {s : State} (d : DataFrame) {r : Half} (hs : s.rx.state = .await)
    (hr : s.rx.cfgLoss.toNat ≤ r.toNat) (hm : d.payload.length ≤ s.rx.cfgM.toNat)
    (he : d.seq ≠ s.rx.expected ∨ s.rx.expected = 0xFFFF) :
    exec (.rxFrameIn (le16 d.seq ++ le16 d.sid ++ d.payload ++ trailer d.last) r) s =
      .next (s.onRx fun x => mismatchFrame x d).complete := by
  rw [exec, execRxFrameIn, frameArrives_frame d hs hr, takeData_mismatch hm he]

/-- Settles O23: the mismatch action, which changes `RX_OUT` only. -/
theorem frameMismatched : Obligations.FrameMismatched := by
  intro s seq sid r last p hs hr hm he
  rw [exec_rxFrameIn_mismatch ⟨seq, sid, last, p⟩ hs hr hm he]
  simp only [State.onRx, mismatchFrame_eq]
  rfl

/-- A frame is dropped where, in `AWAIT` and with a draw that passes, it decodes only to a payload above `RX_CFG_M`
(R138, R144 to R146). -/
theorem frameArrives_dropped {s : State} {b : Frame} {r : Half}
    (h : s.rx.state = .await → s.rx.cfgLoss.toNat ≤ r.toNat → ∀ d, decodeData b = .ok d →
      s.rx.cfgM.toNat < d.payload.length) : frameArrives s b r = s := by
  unfold frameArrives
  split
  · rfl
  · rename_i hs
    split
    · rfl
    · rename_i hr
      split
      · rfl
      · rename_i d hd
        exact if_pos (h (not_not.1 hs) (by simpa [shouldDrop] using hr) d hd)

/-- What decodes has one of the two trailers, and its payload is what stands between header and trailer (R88, R118). -/
theorem decodeData_split_ok {h p : Frame} {t0 t1 : Byte} {d : DataFrame} (hh : h.length = 4)
    (hd : decodeData (h ++ p ++ [t0, t1]) = .ok d) :
    d.payload = p ∧ ((t0 = 0x00 ∧ t1 = 0x00) ∨ (t0 = 0xFF ∧ t1 = 0xFF)) := by
  obtain ⟨b0, b1, b2, b3, rfl⟩ := ack_split hh
  rw [decodeData_split] at hd
  split at hd
  · cases hd
  · rename_i last hlast
    cases hd
    refine ⟨rfl, ?_⟩
    rw [trailerLast_pair] at hlast
    by_contra hno
    obtain ⟨hzero, hones⟩ := not_or.1 hno
    rw [if_neg hzero, if_neg hones] at hlast
    cases hlast

/-- Settles O24: each reason contradicts one of the checks a taken frame passes. -/
theorem frameDropped : Obligations.FrameDropped := by
  intro s b r hwhy
  have hdrop : frameArrives s b r = s := frameArrives_dropped fun hs hr d hd => by
    obtain hidle | hlost | hshort | ⟨h, p, t0, t1, rfl, hh, hbad⟩ := hwhy
    · exact (hidle hs).elim
    · omega
    · rw [decodeData_short hshort] at hd
      cases hd
    · obtain ⟨rfl, htrailer⟩ := decodeData_split_ok hh hd
      exact hbad.resolve_left fun ⟨hzero, hones⟩ => htrailer.elim hzero hones
  rw [exec, execRxFrameIn, hdrop]
  rfl

/-! ## Redelivery -/

/-- Only `RX_START` and an accepted frame move `RX_EXPECTED` (R137, R140). -/
theorem RxMove.expected_cases {p : Params} {x y : RxEngine} {i : Instr} (h : RxMove p x i y) (hi : i ≠ .rxStart) :
    (y.expected = x.expected ∧ y.len = x.len ∧ y.accepted = x.accepted ∧ y.buf = x.buf) ∨
    ∃ b d, dataBytes i = some b ∧ decodeData b = .ok d ∧ d.payload.length ≤ x.cfgM.toNat ∧ d.seq = x.expected ∧
      x.expected ≠ 0xFFFF ∧ y = acceptFrame x d := by
  cases h with
  | begin_ => exact (hi rfl).elim
  | accept i b d hb hd hs hm he hf hc => exact .inr ⟨b, d, hb, hd, hm, he, hf, rfl⟩
  | mismatch i b d =>
    exact .inl ⟨mismatchFrame_expected x d, mismatchFrame_len x d, mismatchFrame_accepted x d, mismatchFrame_buf x d⟩
  | stay | error | config | clear => exact .inl ⟨rfl, rfl, rfl, rfl⟩

/-- `RX_FRAME_IN` completes, and all it moves is the RX engine. -/
theorem exec_rxFrameIn_move (s : State) (b : Frame) (r : Half) :
    ∃ y, exec (.rxFrameIn b r) s = .next ({ s with rx := y } : State).complete ∧
      RxMove s.params s.rx (.rxFrameIn b r) y := by
  obtain ⟨y, hy, hm⟩ := frameArrives_move s (.rxFrameIn b r) b r rfl
  exact ⟨y, by rw [exec, execRxFrameIn, hy], hm⟩

/-- In `AWAIT`, a frame below `RX_EXPECTED` that is not dropped only repeats the last ack (R141, R148). -/
theorem exec_rxFrameIn_below {s : State} (d : DataFrame) {r : Half} (hs : s.rx.state = .await)
    (hr : s.rx.cfgLoss.toNat ≤ r.toNat) (hm : d.payload.length ≤ s.rx.cfgM.toNat)
    (hlt : d.seq.toNat < s.rx.expected.toNat) :
    exec (.rxFrameIn (le16 d.seq ++ le16 d.sid ++ d.payload ++ trailer d.last) r) s = .next { s with
      result := some ⟨0, .none⟩
      rx := { s.rx with out := s.rx.out ++ [encodeAck (s.rx.expected - 1) d.sid] } } := by
  have hstale : d.seq ≠ s.rx.expected := fun he => absurd (congrArg BitVec.toNat he) hlt.ne
  have hpos : s.rx.expected ≠ 0 := fun h0 => by
    rw [h0] at hlt
    exact Nat.not_lt_zero _ hlt
  rw [exec_rxFrameIn_mismatch d hs hr hm (.inl hstale)]
  simp only [State.onRx, mismatchFrame_eq, if_neg hpos]
  rfl

/-- Settles O27: a number below `RX_EXPECTED` is not the expected one, so the frame is never accepted; and after an
acceptance the frame's number is the one before `RX_EXPECTED`, whose ack is the one just sent. -/
theorem redeliveryIdempotent : Obligations.RedeliveryIdempotent := by
  constructor
  · intro s seq sid r last p hlt
    obtain ⟨y, hy, hmove⟩ := exec_rxFrameIn_move s (le16 seq ++ le16 sid ++ p ++ trailer last) r
    obtain ⟨he, hl, ha, hb⟩ | ⟨b, d, hb, hd, -, hseq, -⟩ := hmove.expected_cases nofun
    · refine ⟨_, hy, hb, hl, he, ha, fun hs hr hm => ?_⟩
      rw [exec_rxFrameIn_below ⟨seq, sid, last, p⟩ hs hr hm hlt] at hy
      rw [← Host.Outcome.next.inj hy]
      rfl
    · cases hb
      rw [decodeData_frame] at hd
      cases hd
      exact absurd (congrArg BitVec.toNat hseq) hlt.ne
  · intro s t b r r' h hs hne hr
    obtain ⟨y, hy, hmove⟩ := exec_rxFrameIn_move s b r
    rw [hy] at h
    cases h
    obtain ⟨he, -⟩ | ⟨b', d, hb, hd, hm, hseq, hf, rfl⟩ := hmove.expected_cases nofun
    · exact (hne he).elim
    · cases hb
      have hlt : d.seq.toNat < (s.rx.expected + 1).toNat := by
        rw [hseq, half_succ_of_ne hf]
        exact Nat.lt_succ_self _
      refine ⟨encodeAck s.rx.expected d.sid, rfl, ?_⟩
      rw [decodeData_ok hd, exec_rxFrameIn_below d hs hr hm hlt]
      simp only [complete_rx, acceptFrame_expected, add_sub_cancel_right]

end Sys2Proof.Machine
end

section
/-! The states of the engines, and the acks the RX engine emits (R23, R42, R136, R149, R161). -/

namespace Sys2Proof.Machine

/-- An ack comes with one of the two operations that bring one. -/
theorem ackBytes_eq_some {i : Instr} {b : Frame} (h : ackBytes i = some b) :
    (∃ b r, i = .txAckIn b r) ∨ ∃ k sid, i = .ack k sid := by
  cases i with
  | txAckIn frame r => exact .inl ⟨_, _, rfl⟩
  | ack k sid => exact .inr ⟨_, _, rfl⟩
  | _ => cases h

/-- The row `DATA` brings no final frame (R88, R103). -/
theorem decodeData_dataBytes_data {seq sid : Half} {p b : Frame} {d : DataFrame}
    (hb : dataBytes (.data seq sid p) = some b) (hd : decodeData b = .ok d) : d.last = false := by
  cases hb
  by_cases hp : p.length ≤ 65529
  · rw [encodeData_ok _ _ _ hp, decodeData_frame] at hd
    cases hd
    rfl
  · have hlong : encodeData seq sid false p = (.tooLong, []) := if_pos (Nat.not_le.1 hp)
    rw [hlong, decodeData_short (by simp)] at hd
    cases hd

/-- A final frame comes with `RX_FRAME_IN` or the row `DATA_LAST`. -/
theorem final_dataBytes {i : Instr} {b : Frame} {d : DataFrame} (hb : dataBytes i = some b) (hd : decodeData b = .ok d)
    (hl : d.last = true) : (∃ b r, i = .rxFrameIn b r) ∨ ∃ seq sid p, i = .dataLast seq sid p := by
  obtain h | ⟨seq, sid, p, rfl⟩ | h := dataBytes_eq_some hb
  · exact .inl h
  · rw [decodeData_dataBytes_data hb hd] at hl
    cases hl
  · exact .inr h

/-- `TX_STATE` moves by `TX_START` and by the ack that completes a transfer (R161). -/
theorem TxMove.state_change {p : Params} {x y : TxEngine} {i : Instr} (h : TxMove p x i y) (hne : y.state ≠ x.state) :
    (x.state ≠ .active ∧ y.state = .active ∧ i = .txStart) ∨
    (x.state = .active ∧ y.state = .done ∧ y.base = y.nseg ∧
      ((∃ b r, i = .txAckIn b r) ∨ ∃ k sid, i = .ack k sid)) := by
  cases h with
  | begin_ hs => exact .inl ⟨hs, rfl, rfl⟩
  | ack i b a hb hd hs =>
    rw [advanceWindow_state] at hne
    have hlast : a.ackNum + 1 = x.nseg := by
      by_contra hno
      exact hne (if_neg hno)
    exact .inr ⟨hs, (advanceWindow_state x _).trans (if_pos hlast), by simpa using hlast, ackBytes_eq_some hb⟩
  | send f => exact (hne (sendNext_state x f)).elim
  | tick => exact (hne (tick_state x)).elim
  | stay | error | burst | config | clear | store => exact (hne rfl).elim

/-- `RX_STATE` moves by `RX_START` and by the acceptance of a final frame (R136). -/
theorem RxMove.state_change {p : Params} {x y : RxEngine} {i : Instr} (h : RxMove p x i y) (hne : y.state ≠ x.state) :
    (x.state ≠ .await ∧ y.state = .await ∧ i = .rxStart) ∨
    (x.state = .await ∧ y.state = .done ∧ y.expected.toNat = x.expected.toNat + 1 ∧
      ((∃ b r, i = .rxFrameIn b r) ∨ ∃ seq sid p, i = .dataLast seq sid p)) := by
  cases h with
  | begin_ hs => exact .inl ⟨hs, rfl, rfl⟩
  | accept i b d hb hd hs hm he hf =>
    rw [acceptFrame_state] at hne
    have hlast : d.last = true := by
      by_contra hno
      exact hne (if_neg hno)
    exact .inr ⟨hs, if_pos hlast, half_succ_of_ne hf, final_dataBytes hb hd hlast⟩
  | mismatch i b d => exact (hne (mismatchFrame_state x d)).elim
  | stay | error | config | clear => exact (hne rfl).elim

/-- Settles O46: each engine's state moves as its moves say. -/
theorem stateTransitions : Obligations.StateTransitions := by
  intro i s t h
  obtain ⟨htx, hrx, -, -⟩ := exec_moved h
  exact ⟨htx.state_change, hrx.state_change⟩

/-- What an operation appends to `RX_OUT`: nothing, or one ack of an index below the new `RX_EXPECTED`, which is the
accepted index where one was accepted (R140, R141, R149). -/
theorem RxMove.emits {p : Params} {x y : RxEngine} {i : Instr} (h : RxMove p x i y) : y.out = x.out ∨
    ∃ k sid : Half, y.out = x.out ++ [le16 k ++ le16 sid] ∧ k.toNat + 1 ≤ y.expected.toNat ∧
      (y.expected ≠ x.expected → k = x.expected) := by
  cases h with
  | accept i b d hb hd hs hm he hf =>
    exact .inr ⟨x.expected, d.sid, acceptFrame_out x d, (half_succ_of_ne hf).ge, fun _ => rfl⟩
  | mismatch i b d =>
    have hout := mismatchFrame_out x d
    split at hout
    · exact .inl hout
    · rename_i h0
      have hpos : x.expected.toNat ≠ 0 := fun h => h0 (BitVec.eq_of_toNat_eq h)
      refine .inr ⟨_, d.sid, hout, ?_, fun hne => (hne (mismatchFrame_expected x d)).elim⟩
      rw [mismatchFrame_expected, toNat_pred h0]
      omega
  | stay | error | begin_ | config | clear => exact .inl rfl

/-- Settles O48: the emitted ack is below `RX_EXPECTED`, which is a 16-bit value. -/
theorem ackBounds : Obligations.AckBounds := by
  intro i s t h hne
  obtain ⟨k, sid, hout, hlt, hk⟩ := (exec_moved h).rx.emits.resolve_left hne
  exact ⟨k, sid, hout, hlt, by have := t.rx.expected.isLt; omega, hk⟩

end Sys2Proof.Machine
end

section
/-! The sender of a loopback never runs ahead of its receiver, so a sender that is done has delivered the stream
(R142, R149, R168 to R170, R174, R252). -/

namespace Sys2Proof.Machine

/-! ## What a closed reverse path presents -/

/-- The bytes a datagram at the RX engine's input brings are no ack. -/
theorem arrive_rx_run {b : Frame} {s u : State} {i : Instr} (h : arrive .rx b s = .run i u) :
    i ≠ .rxStart ∧ ackBytes i = none := by
  unfold arrive at h
  split at h
  · rename_i j hj
    obtain ⟨-, ⟨seq, sid, last, p⟩, -, rfl⟩ := decodeDatagram_rx_iff.1 hj
    cases h
    cases last <;> exact ⟨nofun, rfl⟩
  · cases h
    exact ⟨nofun, rfl⟩
  · cases h

/-- The instruction a row makes is encoded with the row's op code (R96). -/
theorem encode_make {row : OpRow} (hr : row ∈ opTable) (c : OpRecord) :
    ∃ c', encode (row.make c) = .port c' ∧ c'.op = row.op := by
  simp only [opTable, codecRows, txRows, rxRows, hostRows, List.cons_append, List.nil_append, List.mem_cons,
    List.not_mem_nil, or_false] at hr
  rcases hr with rfl | rfl | rfl | rfl | rfl | rfl | rfl | rfl | rfl | rfl | rfl | rfl | rfl | rfl | rfl | rfl <;>
    exact ⟨_, rfl, rfl⟩

theorem decodeOp_ne_rxStart {c : OpRecord} {i : Instr} (h : decodeOp c = .ok i) (hc : c.op ≠ 0x20) : i ≠ .rxStart := by
  obtain ⟨row, hr, hop, rfl⟩ := decodeOp_row h
  intro hi
  obtain ⟨c', he, hop'⟩ := encode_make hr c
  rw [hi] at he
  cases he
  exact hc (hop.symm.trans hop'.symm)

/-- An admitted input of a closed reverse path is no `RX_START`, and an ack it brings was in `RX_OUT`. -/
theorem takeInput_reverseClosed {x : Input} {s u : State} {i : Instr} (h : takeInput x s = .run i u)
    (hc : reverseClosed x = true) : i ≠ .rxStart ∧ ∀ b, ackBytes i = some b → b ∈ s.rx.out := by
  cases x with
  | present who c =>
    simp only [reverseClosed, Bool.and_eq_true, bne_iff_ne, ne_eq] at hc
    obtain ⟨hwho, hop⟩ := hc
    obtain ⟨hd, hi, -⟩ := takeRecord_run h
    exact ⟨decodeOp_ne_rxStart hd hop, fun b hb => (hwho (hi.symm.trans ((decodeOp_arrival hd).2 b hb).2)).elim⟩
  | datagram e b =>
    obtain rfl : e = .rx := by simpa [reverseClosed] using hc
    obtain ⟨hi, hn⟩ := arrive_rx_run h
    exact ⟨hi, by simp [hn]⟩
  | forward act =>
    obtain ⟨f, r, rfl, -⟩ := forwardStep_run h
    exact ⟨nofun, nofun⟩
  | reverse act =>
    obtain ⟨f, r, rfl, hf⟩ := reverseStep_run h
    exact ⟨nofun, fun b hb => Option.some.inj hb ▸ hf⟩
  | reset => cases h

/-- While the reverse path is closed a step takes no `RX_START`, and an ack it takes was in `RX_OUT`. -/
theorem fetch_reverseClosed {s u : State} {i : Instr} (h : fetch s = .run i u)
    (hc : ∀ x ∈ s.inputs.head?, reverseClosed x = true) :
    i ≠ .rxStart ∧ ∀ b, ackBytes i = some b → b ∈ s.rx.out := by
  unfold fetch at h
  split at h
  · obtain ⟨rfl | rfl, -⟩ := ownStep_run h <;> exact ⟨nofun, nofun⟩
  · rename_i x rest hx
    exact takeInput_reverseClosed (s := { s with inputs := rest }) h (hc x (by rw [hx]; rfl))

/-! ## The invariant -/

/-- A frame is the ack of one of the first `n` indices. -/
def AckBelow (n : Nat) (f : Frame) : Prop := ∃ k sid : Half, k.toNat < n ∧ f = le16 k ++ le16 sid

theorem ackInv_iff (s : State) : AckInv s ↔
    (s.tx.state ≠ .idle → s.tx.base.toNat ≤ s.rx.expected.toNat) ∧
      ∀ f ∈ s.rx.out, AckBelow s.rx.expected.toNat f :=
  ⟨fun h => ⟨h.behind, h.acks⟩, fun ⟨hb, ha⟩ => ⟨hb, ha⟩⟩

theorem AckBelow.mono {m n : Nat} {f : Frame} (h : AckBelow m f) (hle : m ≤ n) : AckBelow n f := by
  obtain ⟨k, sid, hk, hf⟩ := h
  exact ⟨k, sid, by omega, hf⟩

/-- An ack of one of the first `n` indices decodes to that index. -/
theorem AckBelow.decoded {n : Nat} {f : Frame} {a : AckFrame} (h : AckBelow n f) (hd : decodeAck f = .ok a) :
    a.ackNum.toNat < n := by
  obtain ⟨k, sid, hk, rfl⟩ := h
  rw [decodeAck_frame] at hd
  cases hd
  exact hk

/-- Where every ack an operation brings is of one of the first `n` indices, `TX_BASE` stays at most `n` (R168, R169). -/
theorem TxMove.keeps_base_le {n : Nat} {p : Params} {x y : TxEngine} {i : Instr} (h : TxMove p x i y)
    (hb : ∀ b, ackBytes i = some b → AckBelow n b) (hx : x.state ≠ .idle → x.base.toNat ≤ n) :
    y.state ≠ .idle → y.base.toNat ≤ n := by
  cases h with
  | begin_ => exact fun _ => Nat.zero_le n
  | ack i b a hi hd hs hk =>
    intro _
    have hnext : (a.ackNum + 1).toNat = a.ackNum.toNat + 1 := half_succ (by have := x.next.isLt; omega)
    rw [advanceWindow_base, hnext]
    exact (hb b hi).decoded hd
  | send | tick => simpa using hx
  | stay | error | burst | config | clear | store => exact hx

/-- Every operation but `RX_START` leaves `RX_EXPECTED` or advances it (R43). -/
theorem RxMove.expected_le {p : Params} {x y : RxEngine} {i : Instr} (h : RxMove p x i y) (hi : i ≠ .rxStart) :
    x.expected.toNat ≤ y.expected.toNat := by
  obtain ⟨he, -⟩ | ⟨b, d, -, -, -, -, hf, rfl⟩ := h.expected_cases hi
  · rw [he]
  · rw [acceptFrame_expected, half_succ_of_ne hf]
    exact Nat.le_succ _

/-- Every operation but `RX_START` keeps each ack in `RX_OUT` below `RX_EXPECTED` (R149). -/
theorem RxMove.keeps_ackBelow {p : Params} {x y : RxEngine} {i : Instr} (h : RxMove p x i y) (hi : i ≠ .rxStart)
    (hx : ∀ f ∈ x.out, AckBelow x.expected.toNat f) : ∀ f ∈ y.out, AckBelow y.expected.toNat f := by
  intro f hf
  obtain hout | ⟨k, sid, hout, hk, -⟩ := h.emits
  · exact (hx f (hout ▸ hf)).mono (h.expected_le hi)
  · rw [hout, List.mem_append, List.mem_singleton] at hf
    obtain hold | rfl := hf
    · exact (hx f hold).mono (h.expected_le hi)
    · exact ⟨k, sid, hk, rfl⟩

/-- A channel that takes frames away, or delivers them, keeps the invariant. -/
theorem Handed.keeps_ackInv {s t : State} (h : Handed s t) (hs : AckInv s) : AckInv t := by
  obtain ⟨o, -, htx⟩ := h.tx
  obtain ⟨q, hq, hrx⟩ := h.rx
  rw [ackInv_iff, htx, hrx]
  exact ⟨hs.behind, fun f hf => hs.acks f (hq f hf)⟩

/-- An operation other than `RX_START` whose ack, if it brings one, names an accepted index keeps the invariant. -/
theorem Moved.keeps_ackInv {i : Instr} {s t : State} (h : Moved i s t) (hi : i ≠ .rxStart)
    (hb : ∀ b, ackBytes i = some b → AckBelow s.rx.expected.toNat b) (hs : AckInv s) : AckInv t :=
  (ackInv_iff t).2 ⟨fun hrun => (h.tx.keeps_base_le hb hs.behind hrun).trans (h.rx.expected_le hi),
    h.rx.keeps_ackBelow hi hs.acks⟩

/-- Settles O57: with the reverse path closed, an ack that arrives names an accepted index, so `TX_BASE` moves to at most
`RX_EXPECTED`, which only `RX_START` would take back. -/
theorem senderBehindReceiver : Obligations.SenderBehindReceiver := by
  intro s t hs hc h
  rcases step_cases h with ⟨i, u, hf, he⟩ | hf
  · obtain ⟨hi, hack⟩ := fetch_reverseClosed hf hc
    have hand := fetch_run hf
    have hexp : u.rx.expected = s.rx.expected := by
      obtain ⟨q, -, hrx⟩ := hand.rx
      rw [hrx]
    exact (exec_moved he).keeps_ackInv hi (fun b hb => hexp ▸ hs.acks b (hack b hb)) (hand.keeps_ackInv hs)
  · rcases fetch_idle hf with hh | ⟨ht, hr, -⟩
    · exact hh.keeps_ackInv hs
    · rw [ackInv_iff, ht, hr]
      exact ⟨fun h => (h rfl).elim, nofun⟩

/-- Settles O58: a done sender's base is the number of segments, the receiver has accepted at least that many, and one
that has is done and holds the stream. -/
theorem senderDoneMeansDelivered : Obligations.SenderDoneMeansDelivered := by
  intro stream m s hw hl ha hdone hrun
  obtain ⟨hbase, hnext, -⟩ := hw.finished hdone
  have htx : s.tx.state ≠ .idle := by rw [hdone]; nofun
  have hall : streamSegments stream m ≤ s.rx.expected.toNat := by
    rw [← hl.total htx, ← hnext, ← hbase]
    exact ha.behind htx
  have hstate : s.rx.state = .done := by
    cases hs : s.rx.state with
    | idle => exact (hrun hs).elim
    | await => exact absurd (hl.progress hs) (Nat.not_lt.2 hall)
    | done => rfl
  have hfits : stream.length ≤ streamSegments stream m * m := (segmentCount_bounds hl.legal.1).2.1
  have hlen : s.rx.len.toNat = stream.length := by
    rw [hl.length hrun, hl.whole hstate]
    exact Nat.min_eq_right hfits
  exact ⟨hstate, hlen, fun a h => hl.bytes hrun a (hlen ▸ h)⟩

end Sys2Proof.Machine
end

section
/-! The sender: what `TX_START`, `TX_SEND` and `TX_ACK_IN` answer in each of their cases, and that the window of a running
transfer only moves forward (R162 to R173, R202, R237). -/

namespace Sys2Proof.Machine

/-! ## `TX_SEND` -/

/-- The frame of a segment whose cells hold `p`, with the 16-bit number of that segment (R166). -/
theorem segmentFrame_of_cells {x : TxEngine} {k : Half} {p : Frame} (hl : p.length = segLen x k.toNat)
    (hc : ∀ j, j < p.length → cellRead x.buf (segOff x k.toNat + j) = p[j]?) :
    segmentFrame x k.toNat = some (encodeData k x.cfgSid (decide (k.toNat = x.nseg.toNat - 1)) p).2 :=
  (segmentFrame_eq_some_iff _ _ _).2 ⟨p, hl, hc, by rw [BitVec.ofNat_toNat, BitVec.setWidth_eq]⟩

/-- Settles O14: with its guard open, `TX_SEND` sends the segment's frame where the fetch gives one and faults where it
gives none. -/
theorem txSendEffect : Obligations.TxSendEffect := by
  intro s hs hw hn
  have he : txSendEnabled s.tx = true := (txSendEnabled_iff _).2 ⟨hs, hw, hn⟩
  refine ⟨fun p hl hc => ?_, fun hun => exec_txSend_of_unwritten he ((segmentFrame_eq_none_iff _ _).2 hun)⟩
  rw [exec_txSend_of_frame he (segmentFrame_of_cells hl hc)]
  simp only [State.onTx, sendNext_eq]
  rfl

/-! ## `TX_ACK_IN` -/

/-- Settles O17: the four bytes are the ack frame of their two fields, which moves the window. -/
theorem ackAdvancesWindow : Obligations.AckAdvancesWindow := by
  intro s a0 a1 i0 i1 r hs hl hn hb
  have hbytes : encodeAck (a1 ++ a0) (i1 ++ i0) = [a0, a1, i0, i1] := by
    rw [encodeAck, le16_pair, le16_pair, List.cons_append, List.cons_append, List.nil_append]
  have hadvance : ackArrives s.tx [a0, a1, i0, i1] r = _ :=
    hbytes ▸ (ackArrives_advance _ hs hl hn hb).trans (advanceWindow_eq s.tx _)
  rw [← hs]
  simp only [exec, execTxAckIn, State.onTx, hadvance]
  rfl

/-- An ack is ignored where, in `ACTIVE` and not lost, it decodes only to a number ahead of or behind the window
(R167, R168, R171). -/
theorem ackArrives_ignored {x : TxEngine} {b : Frame} {r : Half}
    (h : x.state = .active → ¬ (x.ctrl.getLsbD 0 = true ∧ r.toNat < x.cfgLoss.toNat) → ∀ a, decodeAck b = .ok a →
      x.next.toNat ≤ a.ackNum.toNat ∨ a.ackNum.toNat + 1 < x.base.toNat) : ackArrives x b r = x := by
  unfold ackArrives
  split
  · rfl
  · rename_i hs
    split
    · rfl
    · rename_i hl
      split
      · rfl
      · rename_i a hd
        unfold takeAck
        split
        · rfl
        · rename_i hahead
          have hpass : ¬ (x.ctrl.getLsbD 0 = true ∧ r.toNat < x.cfgLoss.toNat) := by
            simpa only [ackLossEn, shouldDrop, Bool.and_eq_true, decide_eq_true_eq] using hl
          exact if_pos ((h (not_not.1 hs) hpass a hd).resolve_left hahead)

/-- Settles O18: each reason contradicts one of the checks a taken ack passes. -/
theorem ackIgnored : Obligations.AckIgnored := by
  intro s b r hwhy
  have hignore : ackArrives s.tx b r = s.tx := ackArrives_ignored fun hs hl a hd => by
    obtain hidle | hlost | hlen | ⟨a0, a1, i0, i1, rfl, hout⟩ := hwhy
    · exact (hidle hs).elim
    · exact (hl hlost).elim
    · rw [decodeAck_badLength hlen] at hd
      cases hd
    · rw [decodeAck_four] at hd
      cases hd
      exact hout
  simp only [exec, execTxAckIn, State.onTx, hignore]
  rfl

/-! ## The window within a transfer -/

/-- Between `x` and `y`, by `i`, the window moves only forward: its upper end by one and only by `TX_SEND`, its lower end
only by an ack. -/
def WindowForward (i : Instr) (x y : TxEngine) : Prop :=
  x.base.toNat ≤ y.base.toNat ∧ x.next.toNat ≤ y.next.toNat ∧
    (y.next ≠ x.next → i = .txSend ∧ y.next.toNat = x.next.toNat + 1) ∧
    (y.base ≠ x.base → (∃ b r, i = .txAckIn b r) ∨ ∃ k sid, i = .ack k sid)

theorem windowForward_of_eq {i : Instr} {x y : TxEngine} (hb : y.base = x.base) (hn : y.next = x.next) :
    WindowForward i x y :=
  ⟨by rw [hb], by rw [hn], fun h => (h hn).elim, fun h => (h hb).elim⟩

/-- The upper end stays within `TX_NSEG` and the lower end within the upper end, so neither wraps (R166, R169). -/
theorem TxMove.windowForward {p : Params} {x y : TxEngine} {i : Instr} (h : TxMove p x i y) (hs : x.state = .active) :
    WindowForward i x y := by
  cases h with
  | begin_ hidle => exact (hidle hs).elim
  | send f _ hw hn =>
    have hnext : (sendNext x f).next.toNat = x.next.toNat + 1 := half_succ (by have := x.nseg.isLt; omega)
    have hbase := sendNext_base x f
    exact ⟨by rw [hbase], by rw [hnext]; exact Nat.le_succ _, fun _ => ⟨rfl, hnext⟩, fun h => (h hbase).elim⟩
  | ack i b a hb hd _ hk hk' =>
    have hbase : (advanceWindow x a.ackNum).base.toNat = a.ackNum.toNat + 1 := by
      rw [advanceWindow_base, half_succ (by have := x.next.isLt; omega)]
    have hnext := advanceWindow_next x a.ackNum
    exact ⟨by rwa [hbase], by rw [hnext], fun h => (h hnext).elim, fun _ => ackBytes_eq_some hb⟩
  | tick => exact windowForward_of_eq (tick_base x) (tick_next x)
  | stay | error | burst | config | clear | store => exact windowForward_of_eq rfl rfl

/-- Settles O44: every operation in `ACTIVE` moves the window forward or leaves it. -/
theorem windowMonotonic : Obligations.WindowMonotonic :=
  fun _ _ _ hs h => (exec_moved h).tx.windowForward hs

/-! ## `TX_START` -/

section
variable {s : State}

theorem exec_txStart_busy (hs : s.tx.state = .active) : exec .txStart s = .next (raiseTx s .busy 0x01).complete :=
  if_pos hs

theorem exec_txStart_illegal {detail : Byte} (hs : s.tx.state ≠ .active) (h : txConfigError s = some detail) :
    exec .txStart s = .next (raiseTx s .config detail).complete := by
  rw [exec, execTxStart, if_neg hs, h]

theorem exec_txStart_begins (hs : s.tx.state ≠ .active) (h : txConfigError s = none) :
    exec .txStart s = .next (s.onTx beginTransfer).complete := by
  rw [exec, execTxStart, if_neg hs, h]

/-- The first check of R162 fails. -/
theorem txConfigError_size (h : s.tx.cfgM = 0 ∨ 65529 < s.tx.cfgM.toNat) : txConfigError s = some 0x01 :=
  if_pos (h.imp_left fun h => congrArg BitVec.toNat h)

/-- The checks of R162 after the first, where `CFG_M` passes it. -/
theorem txConfigError_of_size (hlo : 1 ≤ s.tx.cfgM.toNat) (hhi : s.tx.cfgM.toNat ≤ 65529) : txConfigError s =
    if s.tx.cfgW = 0 then some 0x02
    else if s.tx.cfgTimeout = 0 then some 0x03
    else if s.params.txCap < s.tx.len.toNat then some 0x04
    else if 65535 < ceilDiv s.tx.len.toNat s.tx.cfgM.toNat then some 0x05
    else none := by
  have hm : ¬ (s.tx.cfgM.toNat = 0 ∨ s.tx.cfgM.toNat > maxPayload) := by rw [maxPayload]; omega
  rw [txConfigError, if_neg hm]
  simp only [BitVec.toNat_eq, BitVec.ofNat_eq_ofNat, BitVec.toNat_zero, gt_iff_lt]

end

/-- Settles O12: no check of R162 fails, so the transfer begins. -/
theorem txStartBegins : Obligations.TxStartBegins := by
  intro s hs hlo hhi hw ht hl hn
  have hw0 : s.tx.cfgW ≠ 0 := fun h => by simp [h] at hw
  have ht0 : s.tx.cfgTimeout ≠ 0 := fun h => by simp [h] at ht
  have hchecks := txConfigError_of_size hlo hhi
  rw [if_neg hw0, if_neg ht0, if_neg (Nat.not_lt.2 hl)] at hchecks
  exact exec_txStart_begins hs (hchecks.trans (if_neg (Nat.not_lt.2 hn)))

/-- Settles O13: the branch of `TX_START` in each case; the recorded value is `DETAIL << 8 | CODE` (R240). -/
theorem txStartRefusals : Obligations.TxStartRefusals := by
  rintro s code (⟨hs, rfl⟩ | ⟨hs, hm, rfl⟩ | ⟨hs, hlo, hhi, hrest⟩)
  · exact exec_txStart_busy hs
  · exact exec_txStart_illegal hs (txConfigError_size hm)
  · have hchecks := txConfigError_of_size hlo hhi
    obtain ⟨hw, rfl⟩ | ⟨hw, ht, rfl⟩ | ⟨hw, ht, hl, rfl⟩ | ⟨hw, ht, hl, hn, rfl⟩ := hrest
    · exact exec_txStart_illegal hs (hchecks.trans (if_pos hw))
    · rw [if_neg hw] at hchecks
      exact exec_txStart_illegal hs (hchecks.trans (if_pos ht))
    · rw [if_neg hw, if_neg ht] at hchecks
      exact exec_txStart_illegal hs (hchecks.trans (if_pos hl))
    · rw [if_neg hw, if_neg ht, if_neg (Nat.not_lt.2 hl)] at hchecks
      exact exec_txStart_illegal hs (hchecks.trans (if_pos hn))

end Sys2Proof.Machine
end

section
/-! The retransmission timer (43_timer.md R188 to R190): what `TX_TICK` and an expired `TX_TIMEOUT` do. -/

namespace Sys2Proof.Machine

/-- `TX_TIMEOUT` where its guard holds and a segment in flight has an unwritten cell (R64, R190). -/
theorem exec_txTimeout_of_unwritten {s : State} (he : txTimeoutEnabled s.tx = true)
    (hf : segmentFrames s.tx s.tx.base.toNat (inFlight s.tx) = none) : exec .txTimeout s = .fault .txBufUnwritten := by
  simp only [exec, execTxTimeout, if_pos he, hf]

/-- The burst `fs` of `k` segments from segment `i` on, cell by cell (R63, R190). -/
theorem segmentFrames_of_cells {x : TxEngine} {k i : Nat} {fs : List Frame} (hl : fs.length = k)
    (h : ∀ j, j < fs.length → ∃ p : Frame, p.length = segLen x (i + j) ∧
      (∀ l, l < p.length → cellRead x.buf (segOff x (i + j) + l) = p[l]?) ∧
      fs[j]? = some (encodeData (BitVec.ofNat 16 (i + j)) x.cfgSid (decide (i + j = x.nseg.toNat - 1)) p).2) :
    segmentFrames x i k = some fs := by
  refine (segmentFrames_eq_some_iff x k i fs).2 ⟨hl, fun j hj => ?_⟩
  obtain ⟨p, hlen, hcells, hframe⟩ := h j (hl ▸ hj)
  rw [hframe]
  exact (segmentFrame_eq_some_iff x (i + j) _).2 ⟨p, hlen, hcells, rfl⟩

/-- One unwritten cell of a segment in flight leaves no burst (R64, R190). -/
theorem segmentFrames_inFlight_eq_none {x : TxEngine} {i j : Nat} (hlo : x.base.toNat ≤ i) (hhi : i < x.next.toNat)
    (hj : j < segLen x i) (hc : cellRead x.buf (segOff x i + j) = none) :
    segmentFrames x x.base.toNat (inFlight x) = none := by
  refine (segmentFrames_eq_none_iff x _ _).2 ⟨i - x.base.toNat, Nat.sub_lt_sub_right hlo hhi, ?_⟩
  rw [Nat.add_sub_of_le hlo]
  exact (segmentFrame_eq_none_iff x i).2 ⟨j, hj, hc⟩

/-- Settles O15: with the guard true, the burst's fetch decides between the retransmission and the fault. -/
theorem txTimeoutEffect : Obligations.TxTimeoutEffect := by
  intro s hs hr hc
  have he : txTimeoutEnabled s.tx = true := (txTimeoutEnabled_iff s.tx).2 ⟨hs, hr, hc⟩
  constructor
  · intro fs hl hcells
    rw [exec_txTimeout_of_frames he (segmentFrames_of_cells hl hcells), hl]
    rfl
  · rintro ⟨i, j, hlo, hhi, hj, hcell⟩
    exact exec_txTimeout_of_unwritten he (segmentFrames_inFlight_eq_none hlo hhi hj hcell)

/-- Settles O20: a tick advances the time, and a count is above 0 exactly if it is not 0. -/
theorem tickEffect : Obligations.TickEffect := by
  intro s
  have hpos : 0 < s.tx.tmrCount.toNat ↔ s.tx.tmrCount ≠ 0 :=
    Nat.pos_iff_ne_zero.trans (BitVec.toNat_ne_iff_ne (y := 0))
  have hexec : exec .txTick s = .next (s.onTx tick).complete := rfl
  simp only [hexec, State.onTx, tick_eq, hpos]
  rfl

end Sys2Proof.Machine
end

section
/-! The host interface: what the reads return and change, and which register or cell a write stores to (R54 to R56, R65, R71,
R211 to R215, R240, R241). -/

namespace Sys2Proof.Machine

/-! ## `CSR_READ` and `STATS_SNAPSHOT` -/

/-- `TX_CTRL` reads as its bit 0 (R36, R55). -/
theorem and_one_eq_ite (w : Word) : w &&& 1 = if w.getLsbD 0 then 1 else 0 := by
  rw [show (1 : Word) = BitVec.twoPow 32 0 from rfl, BitVec.and_twoPow]
  rfl

theorem txStatusWord_eq (x : TxEngine) : txStatusWord x =
    (match x.state with | .idle => 0 | .active => 1 | .done => 2) + (if x.tmrRun then 4 else 0) := by
  unfold txStatusWord
  cases x.state <;> cases x.tmrRun <;> rfl

theorem rxStatusWord_eq (x : RxEngine) : rxStatusWord x =
    match x.state with | .idle => 0 | .await => 1 | .done => 2 := by
  unfold rxStatusWord
  cases x.state <;> rfl

/-- The index of a register (R54). -/
def csrIndex : Csr → BitVec 6
  | .txCtrl => 0x00
  | .txStatus => 0x01
  | .txErr => 0x02
  | .cfgM => 0x03
  | .cfgW => 0x04
  | .cfgTimeout => 0x05
  | .cfgSid => 0x06
  | .cfgLoss => 0x07
  | .txLen => 0x08
  | .txBase => 0x09
  | .txNext => 0x0A
  | .txNseg => 0x0B
  | .tmrCount => 0x0C
  | .txTime => 0x0D
  | .txSent => 0x0E
  | .txRetx => 0x0F
  | .txTStart => 0x10
  | .txTEnd => 0x11
  | .rxStatus => 0x20
  | .rxErr => 0x21
  | .rxCfgM => 0x22
  | .rxCfgLoss => 0x23
  | .rxExpected => 0x24
  | .rxLen => 0x25
  | .rxAccepted => 0x26

theorem eq_csrIndex_of_csrAt {c : BitVec 6} {k : Csr} (h : csrAt c = some k) : c = csrIndex k := by
  have all : ∀ c : BitVec 6, ∀ k ∈ csrAt c, c = csrIndex k := by decide
  exact all c k h

theorem csrRead_unmapped {c : BitVec 6} (h : csrAt c = none) (s : State) : csrRead s c = 0 := by
  rw [csrRead, h]

/-- Settles O28: a mapped index is its register's, and at an unmapped index no case of the map applies. -/
theorem csrReadValues : Obligations.CsrReadValues := by
  intro s c
  refine congrArg (fun w => Host.Outcome.next (s.answer 0 (.data w))) ?_
  cases hk : csrAt c with
  | some k =>
    obtain rfl := eq_csrIndex_of_csrAt hk
    cases k with
    | txCtrl => exact and_one_eq_ite s.tx.ctrl
    | txStatus => exact txStatusWord_eq s.tx
    | rxStatus => exact rxStatusWord_eq s.rx
    | _ => rfl
  | none =>
    rw [csrRead_unmapped hk]
    split
    case h_26 => rfl
    all_goals
      rename_i hc
      rw [csrAt, hc] at hk
      cases hk

/-- Settles O33: the operation is its answer, by definition. -/
theorem statsSnapshotValues : Obligations.StatsSnapshotValues :=
  fun _ => rfl

/-! ## `CSR_WRITE` -/

section
variable {s : State} {c : BitVec 6} {d : Word}

/-- A write to a TX configuration register that stores by `f` (R212, R234, R240). -/
theorem exec_csrWrite_txConfig {f : TxEngine → TxEngine} (h : csrWrite s c d = storeTxConfig s f) :
    exec (.csrWrite c d) s = .next { s with
      result := some ⟨0, .none⟩
      tx := if s.tx.state = .active then { s.tx with err := if s.tx.err = 0 then 0x0202 else s.tx.err } else f s.tx } := by
  rw [exec, execCsrWrite, h, storeTxConfig_eq]
  rfl

/-- A write to an RX configuration register that stores by `f` (R212, R234, R240). -/
theorem exec_csrWrite_rxConfig {f : RxEngine → RxEngine} (h : csrWrite s c d = storeRxConfig s f) :
    exec (.csrWrite c d) s = .next { s with
      result := some ⟨0, .none⟩
      rx := if s.rx.state = .await then { s.rx with err := if s.rx.err = 0 then 0x0202 else s.rx.err } else f s.rx } := by
  rw [exec, execCsrWrite, h, storeRxConfig_eq]
  rfl

end

/-- Settles O29: each index is the register's of R54, which stores the low bits of its width. -/
theorem csrWriteConfiguration : Obligations.CsrWriteConfiguration := by
  intro s d
  rw [← and_one_eq_ite, ← BitVec.setWidth_eq_extractLsb' (by decide)]
  constructor
  · rintro c x (⟨rfl, rfl⟩ | ⟨rfl, rfl⟩ | ⟨rfl, rfl⟩ | ⟨rfl, rfl⟩ | ⟨rfl, rfl⟩ | ⟨rfl, rfl⟩ | ⟨rfl, rfl⟩)
    · exact exec_csrWrite_txConfig (f := fun x => { x with ctrl := d &&& 1 }) rfl
    · exact exec_csrWrite_txConfig (f := fun x => { x with cfgM := d.setWidth 16 }) rfl
    · exact exec_csrWrite_txConfig (f := fun x => { x with cfgW := d.setWidth 16 }) rfl
    · exact exec_csrWrite_txConfig (f := fun x => { x with cfgTimeout := d }) rfl
    · exact exec_csrWrite_txConfig (f := fun x => { x with cfgSid := d.setWidth 16 }) rfl
    · exact exec_csrWrite_txConfig (f := fun x => { x with cfgLoss := d.setWidth 16 }) rfl
    · exact exec_csrWrite_txConfig (f := fun x => { x with len := d }) rfl
  · rintro c x (⟨rfl, rfl⟩ | ⟨rfl, rfl⟩)
    · exact exec_csrWrite_rxConfig (f := fun x => { x with cfgM := d.setWidth 16 }) rfl
    · exact exec_csrWrite_rxConfig (f := fun x => { x with cfgLoss := d.setWidth 16 }) rfl

/-- The registers a write leaves alone (R54). -/
def csrReadOnly : Csr → Bool
  | .txCtrl | .txErr | .cfgM | .cfgW | .cfgTimeout | .cfgSid | .cfgLoss | .txLen | .rxErr | .rxCfgM | .rxCfgLoss => false
  | _ => true

theorem csrStore_readOnly {k : Csr} (h : csrReadOnly k = true) (s : State) (d : Word) : csrStore s d k = s := by
  cases k with
  | txCtrl | txErr | cfgM | cfgW | cfgTimeout | cfgSid | cfgLoss | txLen | rxErr | rxCfgM | rxCfgLoss => cases h
  | _ => rfl

/-- Every index but the eleven writable ones is a read-only register's or unmapped (R54). -/
theorem csrAt_readOnly {c : BitVec 6} {k : Csr}
    (hc : c.toNat ∉ [0x00, 0x02, 0x03, 0x04, 0x05, 0x06, 0x07, 0x08, 0x21, 0x22, 0x23]) (hk : csrAt c = some k) :
    csrReadOnly k = true := by
  have all : ∀ c : BitVec 6, c.toNat ∉ [0x00, 0x02, 0x03, 0x04, 0x05, 0x06, 0x07, 0x08, 0x21, 0x22, 0x23] →
      ∀ k ∈ csrAt c, csrReadOnly k = true := by decide
  exact all c hc k hk

/-- A write to an index that holds no writable register changes nothing (R54, R56). -/
theorem csrWrite_eq_self {s : State} {c : BitVec 6} (h : ∀ k, csrAt c = some k → csrReadOnly k = true) (d : Word) :
    csrWrite s c d = s := by
  unfold csrWrite
  split
  · rename_i k hk
    exact csrStore_readOnly (h k hk) s d
  · rfl

/-- Settles O30: the two error registers are cleared, and every other index listed holds no writable register. -/
theorem csrWriteOthers : Obligations.CsrWriteOthers := by
  refine fun s d => ⟨rfl, rfl, fun c hc => ?_⟩
  rw [exec, execCsrWrite, csrWrite_eq_self (fun _ => csrAt_readOnly hc)]
  rfl

/-! ## `TXBUF_WRITE` -/

section
variable {s : State} {a : Word} (d : Word)

theorem exec_txbufWrite_busy (hs : s.tx.state = .active) :
    exec (.txbufWrite a d) s = .next (raiseTx s .busy 0x03).complete :=
  if_pos hs

theorem exec_txbufWrite_beyond (hs : s.tx.state ≠ .active) (ha : s.params.txCap ≤ a.toNat) :
    exec (.txbufWrite a d) s = .next (raiseTx s .range 0x01).complete := by
  rw [exec, execTxbufWrite, if_neg hs, if_pos ha]

theorem exec_txbufWrite_within (hs : s.tx.state ≠ .active) (ha : a.toNat < s.params.txCap) :
    exec (.txbufWrite a d) s =
      .next (s.onTx fun x => { x with buf := cellWrite x.buf a.toNat (d.setWidth 8) }).complete := by
  rw [exec, execTxbufWrite, if_neg hs, if_neg (Nat.not_le.2 ha)]
  rfl

end

/-- Settles O31: the checks in their order; the cell written is read back by `cellRead_cellWrite`. -/
theorem txbufWriteEffect : Obligations.TxbufWriteEffect := by
  refine fun s a d => ⟨exec_txbufWrite_busy d, exec_txbufWrite_beyond d, fun hs ha => ?_⟩
  rw [← BitVec.setWidth_eq_extractLsb' (by decide)]
  exact ⟨_, fun b => cellRead_cellWrite s.tx.buf a.toNat b _, exec_txbufWrite_within d hs ha⟩

/-! ## `RXBUF_READ` -/

section
variable {s : State} {a : Word}

theorem exec_rxbufRead_within {v : Byte} (ha : a.toNat < s.rx.len.toNat) (hv : cellRead s.rx.buf a.toNat = some v) :
    exec (.rxbufRead a) s = .next (s.answer 0 (.data (v.setWidth 32))) := by
  simp only [exec, execRxbufRead, if_neg (Nat.not_le.2 ha), hv]

theorem exec_rxbufRead_unknown (ha : a.toNat < s.rx.len.toNat) (hv : cellRead s.rx.buf a.toNat = none) :
    exec (.rxbufRead a) s = .next (answerAnyByte a s) := by
  simp only [exec, execRxbufRead, if_neg (Nat.not_le.2 ha), hv]

theorem exec_rxbufRead_beyond (ha : s.rx.len.toNat ≤ a.toNat) :
    exec (.rxbufRead a) s = .next (answerAnyByte a (raiseRx s .range 0x02)) :=
  if_pos ha

end

/-- The state after an error is recorded records the same error again without change (R240). -/
theorem raiseRx_again (s : State) (e : ErrCode) (detail : Byte) :
    raiseRx (raiseRx s e detail) e detail = raiseRx s e detail := by
  have herr : recordError (recordError s.rx.err e detail) e detail = recordError s.rx.err e detail := by
    by_cases h : s.rx.err = 0
    · simp only [recordError, if_pos h, ite_self]
    · simp only [recordError, if_neg h]
  simp only [raiseRx, State.onRx, herr]

/-- An open read leaves its own byte on the port, so asking it again answers the state it left (R71). -/
theorem answerAnyByte_idem (a : Word) (s : State) : answerAnyByte a (answerAnyByte a s) = answerAnyByte a s := by
  obtain ⟨byte, n, h⟩ := answerAnyByte_answers a s
  exact answerAnyByte_again (byte := byte) (by rw [h])

theorem raiseRx_answerAnyByte (a : Word) (s : State) (e : ErrCode) (detail : Byte) :
    raiseRx (answerAnyByte a s) e detail = answerAnyByte a (raiseRx s e detail) := by
  have hheld : heldByte (raiseRx s e detail) a = heldByte s a := rfl
  unfold answerAnyByte
  rw [hheld]
  split <;> rfl

/-- Repeating a `RXBUF_READ` with no other step between answers the state it left (R71). -/
theorem exec_rxbufRead_again {s t : State} {a : Word} (h : exec (.rxbufRead a) s = .next t) :
    exec (.rxbufRead a) t = .next t := by
  obtain hbeyond | hwithin := le_or_gt s.rx.len.toNat a.toNat
  · rw [exec_rxbufRead_beyond hbeyond] at h
    cases h
    rw [exec_rxbufRead_beyond (by simpa using hbeyond), raiseRx_answerAnyByte, answerAnyByte_idem, raiseRx_again]
  · cases hv : cellRead s.rx.buf a.toNat with
    | some v =>
      rw [exec_rxbufRead_within hwithin hv] at h
      cases h
      exact exec_rxbufRead_within hwithin hv
    | none =>
      rw [exec_rxbufRead_unknown hwithin hv] at h
      cases h
      rw [exec_rxbufRead_unknown (by simpa using hwithin) (by simpa using hv), answerAnyByte_idem]

/-- Settles O32: below `RX_LEN` the invariant gives the cell a byte; beyond it the read is an open one; and each of the three
reads leaves the result it would give again. -/
theorem rxbufReadEffect : Obligations.RxbufReadEffect := by
  intro s a
  refine ⟨fun hinv ha => ?_, fun ha => ?_, ?_⟩
  · obtain ⟨v, hv⟩ := Option.ne_none_iff_exists'.1 (hinv.written _ ha)
    exact ⟨v, hv, exec_rxbufRead_within ha hv⟩
  · obtain ⟨byte, n, hany⟩ := answerAnyByte_answers a (raiseRx s .range 0x02)
    exact ⟨byte, .anyData a byte, n, rfl, (exec_rxbufRead_beyond ha).trans (congrArg _ hany)⟩
  · rintro i t (rfl | ⟨c, rfl⟩ | rfl) h
    · exact exec_rxbufRead_again h
    · cases h
      rfl
    · cases h
      rfl

end Sys2Proof.Machine
end

section
/-! Exceptions (60_exceptions.md): the overflow of `RXBUF` (R235), the one fault there is (R244), and that the first error
stays recorded until it is cleared (R240, R241). -/

namespace Sys2Proof.Machine

/-! ## Overflow -/

/-- The expected data frame overflows where its payload would end beyond `RXCAP` (R147, R235). -/
theorem takeData_overflow {s : State} {d : DataFrame} (hm : d.payload.length ≤ s.rx.cfgM.toNat)
    (he : d.seq = s.rx.expected) (hf : s.rx.expected ≠ 0xFFFF)
    (hc : s.params.rxCap < s.rx.len.toNat + d.payload.length) : takeData s d = raiseRx s .rxOverflow 0x00 := by
  rw [takeData, if_neg (Nat.not_lt.2 hm), if_pos ⟨he, hf⟩, if_pos hc]

/-- Settles O25: the frame passes every check before the room, and the recorded value is `DETAIL << 8 | CODE` (R240). -/
theorem frameOverflows : Obligations.FrameOverflows := by
  intro s seq sid r last p hs hr hm he hf hc
  have htake : takeData s ⟨seq, sid, last, p⟩ = raiseRx s .rxOverflow 0x00 := takeData_overflow hm he hf hc
  rw [exec, execRxFrameIn, frameArrives_frame ⟨seq, sid, last, p⟩ hs hr, htake]
  rfl

/-! ## The only fault -/

/-- `TX_SEND` completes, or its segment has an unwritten cell (R64, R244). -/
theorem exec_txSend_next_or_fault (s : State) :
    (∃ t, exec .txSend s = .next t) ∨ exec .txSend s = .fault .txBufUnwritten := by
  by_cases he : txSendEnabled s.tx = true
  · cases hf : segmentFrame s.tx s.tx.next.toNat with
    | none => exact .inr (exec_txSend_of_unwritten he hf)
    | some f => exact .inl ⟨_, exec_txSend_of_frame he hf⟩
  · exact .inl ⟨s, exec_txSend_of_not_enabled he⟩

/-- `TX_TIMEOUT` completes, or a segment in flight has an unwritten cell (R64, R244). -/
theorem exec_txTimeout_next_or_fault (s : State) :
    (∃ t, exec .txTimeout s = .next t) ∨ exec .txTimeout s = .fault .txBufUnwritten := by
  by_cases he : txTimeoutEnabled s.tx = true
  · cases hf : segmentFrames s.tx s.tx.base.toNat (inFlight s.tx) with
    | none => exact .inr (exec_txTimeout_of_unwritten he hf)
    | some fs => exact .inl ⟨_, exec_txTimeout_of_frames he hf⟩
  · exact .inl ⟨s, exec_txTimeout_of_not_enabled he⟩

/-- Settles O38: only the two operations that fetch a segment can fail to complete. -/
theorem onlyUnwrittenFetchFaults : Obligations.OnlyUnwrittenFetchFaults := by
  intro i s
  by_cases hsend : i = .txSend
  · subst hsend
    exact (exec_txSend_next_or_fault s).imp_right fun hfault => ⟨.inl rfl, hfault⟩
  by_cases hburst : i = .txTimeout
  · subst hburst
    exact (exec_txTimeout_next_or_fault s).imp_right fun hfault => ⟨.inr rfl, hfault⟩
  exact .inl (exec_completes_of_no_fetch hsend hburst s)

/-! ## The first error is kept -/

/-- `record` leaves an earlier error as it is (R240). -/
theorem recordError_of_ne_zero {err : Half} (h : err ≠ 0) (e : ErrCode) (detail : Byte) :
    recordError err e detail = err := if_neg h

/-- Of all moves only a recording and the clear write `TX_ERR`, and a recording keeps an earlier error. -/
theorem TxMove.keeps_err {p : Params} {x y : TxEngine} {i : Instr} (h : TxMove p x i y) (hx : x.err ≠ 0)
    (hi : ∀ d, i ≠ .csrWrite 0x02 d) : y.err = x.err := by
  cases h with
  | error i e d => exact recordError_of_ne_zero hx e d
  | clear w => exact (hi w rfl).elim
  | send f => exact sendNext_err x f
  | ack i b a => exact advanceWindow_err x a.ackNum
  | tick => exact tick_err x
  | stay | begin_ | burst | config | store => rfl

/-- Of all moves only a recording and the clear write `RX_ERR`, and a recording keeps an earlier error. -/
theorem RxMove.keeps_err {p : Params} {x y : RxEngine} {i : Instr} (h : RxMove p x i y) (hx : x.err ≠ 0)
    (hi : ∀ d, i ≠ .csrWrite 0x21 d) : y.err = x.err := by
  cases h with
  | error i e d => exact recordError_of_ne_zero hx e d
  | clear w => exact (hi w rfl).elim
  | mismatch i b d => exact mismatchFrame_err x d
  | stay | begin_ | accept | config => rfl

/-- Settles O42: each engine's error register moves as its moves say. -/
theorem firstErrorKept : Obligations.FirstErrorKept := by
  intro i s t h
  obtain ⟨htx, hrx, -, -⟩ := exec_moved h
  exact ⟨htx.keeps_err, hrx.keeps_err⟩

end Sys2Proof.Machine
end

section
/-! `RESET`, and the bring-up of a loopback transfer: what its operations leave, and that the state they leave meets every
invariant of a loopback (R102, R137, R163, R261 to R266). -/

namespace Sys2Proof.Machine

/-- Settles O35: the input is the head of what is presented, and taking it is `resetState`. -/
theorem resetInput : Obligations.ResetInput :=
  fun s rest h => ⟨resetState { s with inputs := rest }, step_of_idle (fetch_of_inputs h), rfl, rfl, rfl, rfl⟩

/-! ## The pseudo-operations of the bring-up -/

/-- Two updates of the TX engine by completed operations are one. -/
theorem onTx_complete_onTx (s : State) (f g : TxEngine → TxEngine) :
    ((s.onTx f).complete.onTx g).complete = (s.onTx fun x => g (f x)).complete := rfl

/-- A sequence that begins with a write to a TX configuration register, while no transfer is sent (R212). -/
theorem execAll_storeTx {c : BitVec 6} {d : Word} {f : TxEngine → TxEngine} {rest : List Instr} {s : State}
    (h : csrWrite s c d = storeTxConfig s f) (hs : s.tx.state ≠ .active) :
    execAll (.csrWrite c d :: rest) s = execAll rest (s.onTx f).complete := by
  rw [execAll, exec, execCsrWrite, h, storeTxConfig, if_neg hs]

/-- A sequence that begins with a write to an RX configuration register, while no transfer is received (R212). -/
theorem execAll_storeRx {c : BitVec 6} {d : Word} {f : RxEngine → RxEngine} {rest : List Instr} {s : State}
    (h : csrWrite s c d = storeRxConfig s f) (hs : s.rx.state ≠ .await) :
    execAll (.csrWrite c d :: rest) s = execAll rest (s.onRx f).complete := by
  rw [execAll, exec, execCsrWrite, h, storeRxConfig, if_neg hs]

/-- A 16-bit operand survives its zero extension to the write data (log entry 23). -/
theorem half_of_word (v : Half) : (v.setWidth 32).setWidth 16 = v := by
  rw [BitVec.setWidth_setWidth_of_le _ (by decide), BitVec.setWidth_eq]

/-- A TX engine with the configuration `CONFIG_TX` writes (R102). -/
def withTxConfig (m w : Half) (t : Word) (sid loss : Half) (ackLoss : Word) (x : TxEngine) : TxEngine :=
  { x with cfgM := m, cfgW := w, cfgTimeout := t, cfgSid := sid, cfgLoss := loss, ctrl := ackLoss &&& 1 }

/-- An RX engine with the configuration `CONFIG_RX` writes (R102). -/
def withRxConfig (m loss : Half) (x : RxEngine) : RxEngine := { x with cfgM := m, cfgLoss := loss }

/-- A TX engine with the stream `LOAD_TX` writes (R102). -/
def withStream (stream : Frame) (x : TxEngine) : TxEngine :=
  { x with buf := memWrite x.buf 0 stream, len := BitVec.ofNat 32 stream.length }

/-- `CONFIG_TX` while no transfer is sent. -/
theorem execAll_configTx {s : State} (hs : s.tx.state ≠ .active) (m w sid loss : Half) (t ackLoss : Word) :
    execAll (configTx m w t sid loss ackLoss) s =
      .next (s.onTx (withTxConfig m w t sid loss ackLoss)).complete := by
  rw [configTx, execAll_storeTx rfl, execAll_storeTx rfl, execAll_storeTx rfl, execAll_storeTx rfl,
    execAll_storeTx rfl, execAll_storeTx rfl]
  · simp only [onTx_complete_onTx, half_of_word, execAll]
    rfl
  all_goals simpa only [complete_tx, onTx_tx] using hs

/-- `CONFIG_RX` while no transfer is received. -/
theorem execAll_configRx {s : State} (hs : s.rx.state ≠ .await) (m loss : Half) :
    execAll (configRx m loss) s = .next (s.onRx (withRxConfig m loss)).complete := by
  rw [configRx, execAll_storeRx rfl hs, execAll_storeRx rfl]
  · simp only [half_of_word]
    rfl
  · exact hs

/-- `LOAD_TX` of a stream that fits, while no transfer is sent (R213). -/
theorem execAll_loadTx {s : State} {stream : Frame} (hs : s.tx.state ≠ .active) (hp : s.params.wf)
    (hl : stream.length ≤ s.params.txCap) : ∃ u, execAll (loadTx stream) s = .next u ∧ u.tx = withStream stream s.tx ∧
      u.rx = s.rx ∧ u.params = s.params := by
  obtain ⟨v, hv, htx, hrx, hparams⟩ := execAll_writeCells stream hs (a := 0) (by omega) hp
  rw [loadTx, execAll_append hv, execAll_storeTx rfl (by rw [htx]; exact hs)]
  exact ⟨_, rfl, by rw [complete_tx, onTx_tx, htx, withStream], hrx, hparams⟩

/-- No check of `TX_START` fails for a legal configuration (R162). -/
theorem txConfigError_eq_none {s : State} (hm : 1 ≤ s.tx.cfgM.toNat ∧ s.tx.cfgM.toNat ≤ 65529)
    (hw : 1 ≤ s.tx.cfgW.toNat) (ht : 1 ≤ s.tx.cfgTimeout.toNat) (hl : s.tx.len.toNat ≤ s.params.txCap)
    (hn : ceilDiv s.tx.len.toNat s.tx.cfgM.toNat ≤ 65535) : txConfigError s = none := by
  rw [txConfigError, if_neg (by rw [maxPayload]; omega), if_neg (by omega), if_neg (by omega), if_neg (by omega),
    if_neg (by omega)]

/-- `RX_START` and `TX_START` where both configurations pass their checks (R137, R164). -/
theorem execAll_starts {s : State} (hrx : s.rx.state ≠ .await) (hm : 1 ≤ s.rx.cfgM.toNat ∧ s.rx.cfgM.toNat ≤ 65529)
    (htx : s.tx.state ≠ .active) (hc : txConfigError s = none) :
    execAll [.rxStart, .txStart] s = .next ((s.onRx beginReceive).onTx beginTransfer).complete := by
  have hstart : exec .txStart (s.onRx beginReceive).complete = _ := exec_txStart_begins htx hc
  simp only [execAll, exec_rxStart_begins hrx hm, hstart]
  rfl

/-! ## The bring-up -/

/-- A loaded stream's length does not wrap (R61). -/
theorem withStream_len_toNat {stream : Frame} {cap : Nat} (hl : stream.length ≤ cap) (hc : cap ≤ 4294967295)
    (x : TxEngine) : (withStream stream x).len.toNat = stream.length :=
  (BitVec.toNat_ofNat _ _).trans (Nat.mod_eq_of_lt (by omega))

/-- A configuration and a stream that pass every check of the bring-up, and the room for the stream (R137, R162, R265). -/
structure LegalBringUp (p : Params) (stream : Frame) (m w : Half) (t : Word) : Prop where
  params : p.wf
  size : 1 ≤ m.toNat ∧ m.toNat ≤ 65529
  window : 1 ≤ w.toNat
  timeout : 1 ≤ t.toNat
  txFits : stream.length ≤ p.txCap
  rxFits : stream.length ≤ p.rxCap
  count : ceilDiv stream.length m.toNat ≤ 65535

/-- The bring-up configures both engines, loads the stream and begins both (R265). -/
theorem execAll_bringUp {s : State} {stream : Frame} {m w : Half} {t : Word}
    (h : LegalBringUp s.params stream m w t) (htx : s.tx.state ≠ .active) (hrx : s.rx.state ≠ .await)
    (sid loss rxLoss : Half) (ackLoss : Word) :
    ∃ u, execAll (bringUp m w t sid loss ackLoss rxLoss stream) s = .next u ∧
      u.tx = beginTransfer (withStream stream (withTxConfig m w t sid loss ackLoss s.tx)) ∧
      u.rx = beginReceive (withRxConfig m rxLoss s.rx) ∧ u.params = s.params := by
  let c := ((s.onTx (withTxConfig m w t sid loss ackLoss)).complete.onRx (withRxConfig m rxLoss)).complete
  have hconfig : execAll (configTx m w t sid loss ackLoss ++ configRx m rxLoss) s = .next c :=
    (execAll_append (execAll_configTx htx m w sid loss t ackLoss)).trans (execAll_configRx (by exact hrx) m rxLoss)
  obtain ⟨v, hload, hvtx, hvrx, hvparams⟩ := execAll_loadTx (s := c) htx h.params h.txFits
  have hlen := withStream_len_toNat h.txFits h.params.2.1 c.tx
  rw [← hvtx] at hlen
  have hcheck : txConfigError v = none := txConfigError_eq_none (by rw [hvtx]; exact h.size)
    (by rw [hvtx]; exact h.window) (by rw [hvtx]; exact h.timeout) (by rw [hlen, hvparams]; exact h.txFits)
    (by rw [hlen, hvtx]; exact h.count)
  have hstarts := execAll_starts (by rw [hvrx]; exact hrx) (by rw [hvrx]; exact h.size) (by rw [hvtx]; exact htx) hcheck
  exact ⟨_, (execAll_append ((execAll_append hconfig).trans hload)).trans hstarts, congrArg beginTransfer hvtx,
    congrArg beginReceive hvrx, hvparams⟩

/-- What the bring-up leaves is the state a transfer of the stream starts from, where no frame was queued (R265, R274). -/
theorem LegalBringUp.broughtUp {s u : State} {stream : Frame} {m w sid loss rxLoss : Half} {t ackLoss : Word}
    (h : LegalBringUp s.params stream m w t) (htxq : s.tx.out = []) (hrxq : s.rx.out = [])
    (htx : u.tx = beginTransfer (withStream stream (withTxConfig m w t sid loss ackLoss s.tx)))
    (hrx : u.rx = beginReceive (withRxConfig m rxLoss s.rx)) (hparams : u.params = s.params) : BroughtUp stream u := by
  have hlen := withStream_len_toNat h.txFits h.params.2.1 (withTxConfig m w t sid loss ackLoss s.tx)
  have htransfer : TransferOk s.params.txCap u.tx := fun _ => by
    rw [htx, beginTransfer_nseg_toNat (by rw [hlen]; exact h.count)]
    exact ⟨⟨h.size.1, h.size.2, h.window, h.timeout, hlen.trans_le h.txFits⟩, rfl⟩
  have hcells : ∀ a, a < stream.length → cellRead (memWrite s.tx.buf 0 stream) a = stream[a]? := fun a ha =>
    (cellRead_memWrite stream s.tx.buf 0 a).trans (if_pos ⟨Nat.zero_le a, by omega⟩)
  exact
    { params := hparams ▸ h.params
      states := by rw [htx, hrx]; exact ⟨rfl, rfl⟩
      begun := by rw [htx, hrx]; exact ⟨rfl, rfl, rfl, rfl, rfl, rfl⟩
      transfer := (transferInv_iff u).2 (hparams ▸ htransfer)
      loaded := by rw [htx]; exact ⟨hlen, hcells⟩
      agree := by rw [htx, hrx]; rfl
      fits := hparams ▸ h.rxFits
      quiet := by rw [htx, hrx]; exact ⟨htxq, hrxq⟩ }

/-! ## The state a transfer starts from -/

section
variable {stream : Frame} {s : State}

/-- A transfer starts with an empty window and the timer stopped (R163). -/
theorem BroughtUp.txInv (h : BroughtUp stream s) : TxInv s.tx := by
  obtain ⟨hbase, hnext, hrun, hcount, -⟩ := h.begun
  have hn := h.transfer.count h.states.1
  exact
    { window := fun _ => by rw [hbase, hnext, hn]; simp
      timer := fun _ => by simp [hrun, hbase, hnext]
      stopped := fun _ _ => hcount
      bounded := fun _ => by simp [hcount]
      finished := fun hd => by rw [h.states.1] at hd; cases hd }

/-- A transfer starts with as many segments as the stream has (R163). -/
theorem BroughtUp.total (h : BroughtUp stream s) :
    s.tx.nseg.toNat = streamSegments stream s.tx.cfgM.toNat := by
  rw [h.transfer.count h.states.1, h.loaded.1, streamSegments]

/-- A transfer starts with nothing sent and nothing received (R137, R163). -/
theorem BroughtUp.loopInv (h : BroughtUp stream s) : LoopInv stream s.tx.cfgM.toNat s := by
  obtain ⟨-, -, -, -, hexp, hlen⟩ := h.begun
  obtain ⟨hlo, hhi, -⟩ := h.transfer.legal h.states.1
  have hcount : streamSegments stream s.tx.cfgM.toNat ≤ 65535 := by
    rw [← h.total]
    exact Nat.le_of_lt_succ s.tx.nseg.isLt
  exact
    { legal := ⟨hlo, hhi, hcount⟩
      source := fun _ => ⟨rfl, h.loaded⟩
      total := fun _ => h.total
      frames := by rw [h.quiet.1]; exact nofun
      progress := fun _ => by rw [hexp]; exact Nat.le_max_left 1 _
      whole := fun hd => by rw [h.states.2] at hd; cases hd
      length := fun _ => by simp [hexp, hlen]
      bytes := fun _ a ha => by rw [hlen] at ha; exact absurd ha (Nat.not_lt_zero a) }

/-- A transfer starts with nothing acknowledged. -/
theorem BroughtUp.ackInv (h : BroughtUp stream s) : AckInv s := by
  obtain ⟨hbase, -⟩ := h.begun
  rw [ackInv_iff, hbase, h.quiet.2]
  exact ⟨fun _ => Nat.zero_le _, nofun⟩

end

/-- Settles O59: the operations complete one after another (`execAll_bringUp`), and a state in which nothing has been sent
meets every invariant. -/
theorem bringUpStartsTransfer : Obligations.BringUpStartsTransfer := by
  refine ⟨fun s stream m w sid loss rxLoss t ackLoss hp htx hrx htxq hrxq hlo hhi hw ht htxFits hrxFits hn => ?_,
    fun s stream h => ⟨h.txInv, h.loopInv, h.ackInv⟩⟩
  have h : LegalBringUp s.params stream m w t :=
    ⟨hp, ⟨hlo, hhi⟩, hw, ht, htxFits, hrxFits, (Nat.le_max_right 1 _).trans hn⟩
  obtain ⟨u, hu, hutx, hurx, hparams⟩ := execAll_bringUp h htx hrx sid loss rxLoss ackLoss
  refine ⟨u, hu, h.broughtUp htxq hrxq hutx hurx hparams, ?_⟩
  rw [hutx, hurx]
  exact ⟨rfl, rfl, rfl, rfl, rfl, rfl, rfl, rfl⟩

end Sys2Proof.Machine
end

section
/-! A run of one loopback transfer: what every step keeps until the receiver is done (R270, log entry 22). -/

namespace Sys2Proof.Machine

/-! ## Running engines -/

/-- A tick never winds the timer up (R188). -/
theorem tick_tmrCount_le (x : TxEngine) : (tick x).tmrCount.toNat ≤ x.tmrCount.toNat := by
  rw [tick_eq]
  dsimp only
  split
  · rename_i hc
    rw [toNat_pred hc.2]
    exact Nat.sub_le _ _
  · exact Nat.le_refl _

/-- A running TX engine sends the next segment, retransmits its window, or emits nothing; then only an ack winds its timer up
again (R166, R169, R188, R190). -/
theorem TxMove.active_cases {p : Params} {x y : TxEngine} {i : Instr} (h : TxMove p x i y) (hs : x.state = .active) :
    (∃ f, segmentFrame x x.next.toNat = some f ∧ x.next.toNat < x.nseg.toNat ∧ y = sendNext x f) ∨
    (i = .txTimeout ∧ txTimeoutEnabled x = true ∧
      ∃ fs, segmentFrames x x.base.toNat (inFlight x) = some fs ∧ y = retransmit x fs) ∨
    (y.out = x.out ∧ y.next = x.next ∧ ((∃ b, ackBytes i = some b) ∨ y.tmrCount.toNat ≤ x.tmrCount.toNat)) := by
  cases h with
  | begin_ hidle | config c w hidle | store a w hidle => exact (hidle hs).elim
  | send f _ _ hn hf => exact .inl ⟨f, hf, hn, rfl⟩
  | burst fs _ hr hc hf => exact .inr (.inl ⟨rfl, (txTimeoutEnabled_iff x).2 ⟨hs, hr, hc⟩, fs, hf, rfl⟩)
  | ack i b a hb => exact .inr (.inr ⟨advanceWindow_out x _, advanceWindow_next x _, .inl ⟨b, hb⟩⟩)
  | tick => exact .inr (.inr ⟨tick_out x, tick_next x, .inr (tick_tmrCount_le x)⟩)
  | stay | error | clear => exact .inr (.inr ⟨rfl, rfl, .inr (Nat.le_refl _)⟩)

/-- What a running TX engine does, some operation other than `TX_START` does (R164). -/
theorem TxMove.not_start {p : Params} {x y : TxEngine} {i : Instr} (h : TxMove p x i y) (hs : x.state = .active) :
    ∃ j, j ≠ .txStart ∧ TxMove p x j y := by
  by_cases hi : i = .txStart
  · subst hi
    cases h with
    | stay => exact ⟨.txSend, nofun, .stay _⟩
    | error _ e d => exact ⟨.txSend, nofun, .error _ e d⟩
    | begin_ hidle => exact (hidle hs).elim
    | ack _ _ _ hb => cases hb
  · exact ⟨i, hi, h⟩

/-- What a running RX engine does, some operation other than `RX_START` does (R137). -/
theorem RxMove.not_start {p : Params} {x y : RxEngine} {i : Instr} (h : RxMove p x i y) (hs : x.state = .await) :
    ∃ j, j ≠ .rxStart ∧ RxMove p x j y := by
  by_cases hi : i = .rxStart
  · subst hi
    cases h with
    | stay => exact ⟨.txSend, nofun, .stay _⟩
    | error _ e d => exact ⟨.txSend, nofun, .error _ e d⟩
    | begin_ hidle => exact (hidle hs).elim
    | accept _ _ _ hb => cases hb
    | mismatch _ _ _ hb => cases hb
  · exact ⟨i, hi, h⟩

/-! ## Nothing names a segment that has not been sent -/

/-- A frame, if it is a data frame, is one of the first `n` segments. -/
def SeqBelow (n : Nat) (f : Frame) : Prop := ∀ d, decodeData f = .ok d → d.seq.toNat < n

/-- What an encoded data frame decodes to has its number. -/
theorem decodeData_encodeData_seq {seq sid : Half} {last : Bool} {p : Frame} {d : DataFrame}
    (h : decodeData (encodeData seq sid last p).2 = .ok d) : d.seq = seq := by
  by_cases hp : p.length ≤ 65529
  · rw [encodeData_ok _ _ _ hp, decodeData_frame] at h
    cases h
    rfl
  · have hlong : encodeData seq sid last p = (.tooLong, []) := if_pos (Nat.not_le.1 hp)
    rw [hlong, decodeData_short (by simp)] at h
    cases h

/-- The frame of a segment has the segment's number. -/
theorem segmentFrame_seqBelow {x : TxEngine} {i n : Nat} {f : Frame} (hf : segmentFrame x i = some f) (hi : i < n)
    (hn : n ≤ 65536) : SeqBelow n f := by
  obtain ⟨p, -, -, rfl⟩ := (segmentFrame_eq_some_iff _ _ _).1 hf
  intro d hd
  rw [decodeData_encodeData_seq hd, BitVec.toNat_ofNat]
  omega

/-- No data frame on its way, no accepted segment and no ack on its way lies beyond what the TX engine has sent. -/
structure WithinSent (s : State) : Prop where
  frames : ∀ f ∈ s.tx.out, SeqBelow s.tx.next.toNat f
  expected : s.rx.expected.toNat ≤ s.tx.next.toNat
  acks : ∀ f ∈ s.rx.out, AckBelow s.tx.next.toNat f

theorem withinSent_iff (s : State) : WithinSent s ↔ (∀ f ∈ s.tx.out, SeqBelow s.tx.next.toNat f) ∧
    s.rx.expected.toNat ≤ s.tx.next.toNat ∧ ∀ f ∈ s.rx.out, AckBelow s.tx.next.toNat f :=
  ⟨fun h => ⟨h.frames, h.expected, h.acks⟩, fun ⟨hf, he, ha⟩ => ⟨hf, he, ha⟩⟩

/-- The frames a running TX engine appends are of segments it has sent. -/
theorem TxMove.keeps_seqBelow {p : Params} {x y : TxEngine} {i : Instr} (h : TxMove p x i y) (hx : TxInv x)
    (hs : x.state = .active) (hout : ∀ f ∈ x.out, SeqBelow x.next.toNat f) :
    ∀ f ∈ y.out, SeqBelow y.next.toNat f := by
  intro f hf
  obtain ⟨g, hg, hn, rfl⟩ | ⟨-, -, fs, hfs, rfl⟩ | ⟨ho, hn, -⟩ := h.active_cases hs
  · have hnext : (sendNext x g).next.toNat = x.next.toNat + 1 := half_succ (by have := x.nseg.isLt; omega)
    rw [sendNext_out, List.mem_append, List.mem_singleton] at hf
    rw [hnext]
    obtain hf | rfl := hf
    · exact fun d hd => (hout f hf d hd).trans (Nat.lt_succ_self _)
    · exact segmentFrame_seqBelow hg (Nat.lt_succ_self _) x.next.isLt
  · rw [retransmit_out, List.mem_append] at hf
    obtain hf | hf := hf
    · exact hout f hf
    · obtain ⟨j, -, hj, hg⟩ := mem_segmentFrames hfs hf
      have := (hx.window hs).1
      unfold inFlight at hj
      exact segmentFrame_seqBelow hg (show j < x.next.toNat by omega) x.next.isLt.le
  · rw [hn]
    exact hout f (ho ▸ hf)

/-- Where the data frame an operation brings is of one of the first `n` segments, `RX_EXPECTED` stays at most `n`. -/
theorem RxMove.keeps_expected_le {n : Nat} {p : Params} {x y : RxEngine} {i : Instr} (h : RxMove p x i y)
    (hb : ∀ b, dataBytes i = some b → SeqBelow n b) (hx : x.expected.toNat ≤ n) : y.expected.toNat ≤ n := by
  cases h with
  | begin_ => exact Nat.zero_le n
  | accept i b d hi hd _ _ he hf =>
    rw [acceptFrame_expected, half_succ_of_ne hf, ← he]
    exact hb b hi d hd
  | mismatch i b d => rwa [mismatchFrame_expected]
  | stay | error | config | clear => exact hx

/-- Then the acks it emits are of those segments too (R149). -/
theorem RxMove.keeps_acks_below {n : Nat} {p : Params} {x y : RxEngine} {i : Instr} (h : RxMove p x i y)
    (he : y.expected.toNat ≤ n) (hx : ∀ f ∈ x.out, AckBelow n f) : ∀ f ∈ y.out, AckBelow n f := by
  intro f hf
  obtain hout | ⟨k, sid, hout, hk, -⟩ := h.emits
  · exact hx f (hout ▸ hf)
  · rw [hout, List.mem_append, List.mem_singleton] at hf
    obtain hf | rfl := hf
    · exact hx f hf
    · exact ⟨k, sid, by omega, rfl⟩

/-! ## The sender's side of a run -/

theorem SameTransfer.trans {x y z : TxEngine} (h : SameTransfer x y) (h' : SameTransfer y z) : SameTransfer x z := by
  simp_all [SameTransfer]

/-- The TX engine still sends the transfer it was sending in `o`. -/
structure Sending (o s : State) : Prop where
  active : s.tx.state = .active
  same : SameTransfer o.tx s.tx
  window : TxInv s.tx
  sent : WithinSent s

/-- A channel that takes frames away, or delivers them, keeps the sender's side. -/
theorem Handed.keeps_sending {o s t : State} (h : Handed s t) (hs : Sending o s) : Sending o t := by
  obtain ⟨q, hq, htx⟩ := h.tx
  obtain ⟨r, hr, hrx⟩ := h.rx
  refine ⟨by rw [htx]; exact hs.active, by rw [htx]; exact hs.same, h.keeps_txInv hs.window, ?_⟩
  rw [withinSent_iff, htx, hrx]
  exact ⟨fun f hf => hs.sent.frames f (hq f hf), hs.sent.expected, fun f hf => hs.sent.acks f (hr f hf)⟩

/-- An operation whose data frame, if it brings one, has been sent keeps the sender's side or completes the transfer. -/
theorem Moved.keeps_sending {o s t : State} {i : Instr} (h : Moved i s t) (hs : Sending o s)
    (hb : ∀ b, dataBytes i = some b → SeqBelow s.tx.next.toNat b) : Sending o t ∨ t.tx.state = .done := by
  have hforward : s.tx.next.toNat ≤ t.tx.next.toNat := (h.tx.windowForward hs.active).2.1
  have hexpected := h.rx.keeps_expected_le hb hs.sent.expected
  have hkept : t.tx.state = .active → Sending o t := fun ha =>
    { active := ha
      same := hs.same.trans (h.tx.sameTransfer hs.active)
      window := h.tx.keeps_txInv hs.window
      sent :=
        { frames := h.tx.keeps_seqBelow hs.window hs.active hs.sent.frames
          expected := hexpected.trans hforward
          acks := fun f hf => (h.rx.keeps_acks_below hexpected hs.sent.acks f hf).mono hforward } }
  by_cases hchange : t.tx.state = s.tx.state
  · exact .inl (hkept (hchange.trans hs.active))
  · obtain ⟨hidle, -⟩ | ⟨-, hdone, -⟩ := h.tx.state_change hchange
    · exact (hidle hs.active).elim
    · exact .inr hdone

/-- Every step of a run keeps the sender's side or completes the transfer. -/
theorem Run.keeps_sending {ρ : Run} (hw : ∀ n x, ρ.given n = some x → withinTransfer x = true) {o : State}
    {n : Nat} (h : Sending o (ρ.state n)) : Sending o (ρ.state (n + 1)) ∨ (ρ.state (n + 1)).tx.state = .done := by
  obtain ⟨i, u, -, ht, he⟩ | ⟨-, hidle⟩ := run_step hw n
  · have hu := ht.handed.keeps_sending h
    refine (exec_moved he).keeps_sending hu fun b hb => ?_
    obtain ⟨q, -, hq⟩ := ht.handed.tx
    rw [hq]
    exact h.sent.frames b (ht.data_mem hb)
  · exact .inl (hidle.handed.keeps_sending h)

/-- The transfer brought up is being sent. -/
theorem BroughtUp.sending {stream : Frame} {s : State} (h : BroughtUp stream s) : Sending s s := by
  obtain ⟨-, -, -, -, hexp, -⟩ := h.begun
  refine ⟨h.states.1, ⟨rfl, rfl, rfl, rfl, rfl, rfl, rfl, rfl, rfl⟩, h.txInv, ?_⟩
  rw [withinSent_iff, h.quiet.1, h.quiet.2, hexp]
  exact ⟨nofun, Nat.zero_le _, nofun⟩

/-- In a fair run whose sender never completes, the transfer is being sent for ever. -/
theorem FairTransfer.sending {stream : Frame} {ρ : Run} (h : FairTransfer stream ρ)
    (hnever : ∀ n, (ρ.state n).tx.state ≠ .done) (n : Nat) : Sending (ρ.state 0) (ρ.state n) := by
  induction n with
  | zero => exact h.configured.sending
  | succ n ih => exact (Run.keeps_sending h.alone ih).resolve_right (hnever (n + 1))

/-! ## The receiver's side of a run -/

/-- The RX engine is receiving the stream the TX engine was sending in `o`. -/
structure Receiving (stream : Frame) (o s : State) : Prop where
  await : s.rx.state = .await
  params : s.params = o.params
  size : s.rx.cfgM = o.tx.cfgM
  loop : LoopInv stream o.tx.cfgM.toNat s
  acks : AckInv s

/-- The whole stream has been received. -/
def Delivered (stream : Frame) (s : State) : Prop :=
  s.rx.state = .done ∧ s.rx.len.toNat = stream.length ∧ ∀ a, a < stream.length → cellRead s.rx.buf a = stream[a]?

/-- A receiver that is done holds the whole stream (R142). -/
theorem LoopInv.delivered {stream : Frame} {m : Nat} {s : State} (h : LoopInv stream m s) (hd : s.rx.state = .done) :
    Delivered stream s := by
  have hrun : s.rx.state ≠ .idle := by rw [hd]; nofun
  have hlen : s.rx.len.toNat = stream.length := by
    rw [h.length hrun, h.whole hd]
    exact Nat.min_eq_right (segmentCount_bounds h.legal.1).2.1
  exact ⟨hd, hlen, fun a ha => h.bytes hrun a (hlen ▸ ha)⟩

theorem Handed.keeps_receiving {stream : Frame} {o s t : State} (h : Handed s t) (hs : Receiving stream o s) :
    Receiving stream o t := by
  obtain ⟨r, -, hrx⟩ := h.rx
  refine ⟨?_, h.params.trans hs.params, ?_, h.keeps_loopInv hs.loop, h.keeps_ackInv hs.acks⟩ <;> rw [hrx]
  · exact hs.await
  · exact hs.size

/-- An operation whose frame, if it brings one, comes from the loopback keeps the receiver's side or delivers the stream. -/
theorem Moved.keeps_receiving {stream : Frame} {o s t : State} {i : Instr} (h : Moved i s t) (hp : o.params.wf)
    (hs : Sending o s) (hr : Receiving stream o s)
    (hdata : ∀ b, dataBytes i = some b → ∃ j, StreamFrame stream o.tx.cfgM.toNat j b)
    (hack : ∀ b, ackBytes i = some b → AckBelow s.rx.expected.toNat b) :
    Receiving stream o t ∨ Delivered stream t := by
  obtain ⟨hlegal, hsends, hholds⟩ := loopInv_iff.1 hr.loop
  obtain ⟨j, hj, htx⟩ := h.tx.not_start hs.active
  obtain ⟨k, hk, hrx⟩ := h.rx.not_start hr.await
  have hloop : LoopInv stream o.tx.cfgM.toNat t := loopInv_iff.2
    ⟨hlegal, htx.keeps_sendsStream hj ⟨hlegal.1, hlegal.2.1⟩ hs.window hsends,
      h.rx.keeps_holdsPrefix (hr.params ▸ hp) hlegal.2.2 hdata hholds⟩
  have hacks : AckInv t := (ackInv_iff t).2
    ⟨fun hrun => (h.tx.keeps_base_le hack hr.acks.behind hrun).trans (hrx.expected_le hk),
      hrx.keeps_ackBelow hk hr.acks.acks⟩
  by_cases hchange : t.rx.state = s.rx.state
  · exact .inl ⟨hchange.trans hr.await, h.params.trans hr.params, (h.rx.sameConfig hr.await).1.trans hr.size, hloop,
      hacks⟩
  · obtain ⟨hidle, -⟩ | ⟨-, hdone, -⟩ := h.rx.state_change hchange
    · exact (hidle hr.await).elim
    · exact .inr (hloop.delivered hdone)

/-- The transfer of `stream` that was under way in `o` still is, on both sides. -/
structure UnderWay (stream : Frame) (o s : State) : Prop where
  sending : Sending o s
  receiving : Receiving stream o s

/-- Every step of a run keeps a transfer under way until the stream is delivered: the sender is not done before. -/
theorem Run.keeps_underWay {ρ : Run} (hw : ∀ n x, ρ.given n = some x → withinTransfer x = true) {stream : Frame}
    {o : State} (hp : o.params.wf) {n : Nat} (h : UnderWay stream o (ρ.state n)) :
    UnderWay stream o (ρ.state (n + 1)) ∨ Delivered stream (ρ.state (n + 1)) := by
  have hreceived : Receiving stream o (ρ.state (n + 1)) ∨ Delivered stream (ρ.state (n + 1)) := by
    obtain ⟨i, u, -, ht, he⟩ | ⟨-, hidle⟩ := run_step hw n
    · obtain ⟨r, -, hr⟩ := ht.handed.rx
      refine (exec_moved he).keeps_receiving hp (ht.handed.keeps_sending h.sending)
        (ht.handed.keeps_receiving h.receiving) (fun b hb => h.receiving.loop.frames b (ht.data_mem hb)) fun b hb => ?_
      rw [hr]
      exact h.receiving.acks.acks b (ht.ack_mem hb)
    · exact .inl (hidle.handed.keeps_receiving h.receiving)
  refine hreceived.imp_left fun hr => ⟨(Run.keeps_sending hw h.sending).resolve_right fun hdone => ?_, hr⟩
  have hrun : (ρ.state (n + 1)).rx.state ≠ .idle := by rw [hr.await]; nofun
  have hwindow := stepKeepsWindow ((ρ.state n).offered (ρ.given n)) _ h.sending.window (ρ.steps n)
  have hall := senderDoneMeansDelivered stream _ _ hwindow hr.loop hr.acks hdone hrun
  rw [hr.await] at hall
  cases hall.1

/-- In a fair run that never delivers the stream, the transfer is under way for ever. -/
theorem FairTransfer.underWay {stream : Frame} {ρ : Run} (h : FairTransfer stream ρ)
    (hnever : ∀ n, ¬ Delivered stream (ρ.state n)) (n : Nat) : UnderWay stream (ρ.state 0) (ρ.state n) := by
  have hup := h.configured
  induction n with
  | zero => exact ⟨hup.sending, hup.states.2, rfl, hup.agree, hup.loopInv, hup.ackInv⟩
  | succ n ih => exact (Run.keeps_underWay h.alone hup.params ih).resolve_right (hnever (n + 1))

end Sys2Proof.Machine
end

section
/-! Liveness of a loopback transfer (R268, R270): in a fair run under way for ever the window would stand still at last, its
timer would expire again and again, and each retransmission would in the end move the window after all. -/

namespace Sys2Proof.Machine

/-! ## What operations, deliveries and retransmissions do -/

/-- What follows from some step on from something that happens infinitely often happens infinitely often. -/
theorem InfinitelyOften.of_from {p q : Nat → Prop} {a : Nat} (h : InfinitelyOften p) (hpq : ∀ n, a ≤ n → p n → q n) :
    InfinitelyOften q := by
  intro n
  obtain ⟨k, hk, hp⟩ := h (max a n)
  exact ⟨k, by omega, hpq k (by omega) hp⟩

/-- A data frame is delivered to the RX engine as it was. -/
theorem Took.data_rx {s u : State} {f : Frame} {r : Half} (h : Took s (.rxFrameIn f r) u) :
    u.rx = s.rx ∧ u.params = s.params := by
  cases h with
  | plain _ _ _ hd => cases hd
  | data hp _ _ hr => exact ⟨hr, hp⟩

/-- An ack is delivered to the TX engine as it was. -/
theorem Took.ack_tx {s u : State} {f : Frame} {r : Half} (h : Took s (.txAckIn f r) u) : u.tx = s.tx := by
  cases h with
  | plain _ _ _ _ ha => cases ha
  | ack _ _ ht => exact ht

/-- An operation that brings no bytes is taken with both engines as they were. -/
theorem Took.no_bytes {s u : State} {i : Instr} (h : Took s i u) (hd : dataBytes i = none) (ha : ackBytes i = none) :
    u.tx = s.tx ∧ u.rx = s.rx := by
  cases h with
  | plain _ ht hr => exact ⟨ht, hr⟩
  | data => cases hd
  | ack => cases ha

/-- An operation answers at most one frame, and none where it brings no data frame (R140, R141). -/
theorem RxMove.out_length {p : Params} {x y : RxEngine} {i : Instr} (h : RxMove p x i y) :
    y.out.length ≤ x.out.length + 1 ∧ (dataBytes i = none → y.out = x.out) := by
  constructor
  · obtain hout | ⟨k, sid, hout, -⟩ := h.emits <;> rw [hout]
    · exact Nat.le_succ _
    · rw [List.length_append, List.length_singleton]
  · intro hd
    obtain ⟨new, hout, hnew⟩ := h.out_append
    by_cases hn : new = []
    · rw [hout, hn, List.append_nil]
    · obtain ⟨b, hb⟩ := hnew hn
      rw [hd] at hb
      cases hb

/-- `TX_TIMEOUT` that completes where its guard holds has retransmitted the window (R190). -/
theorem exec_txTimeout_next {s t : State} (he : txTimeoutEnabled s.tx = true) (h : exec .txTimeout s = .next t) :
    ∃ fs, segmentFrames s.tx s.tx.base.toNat (inFlight s.tx) = some fs ∧
      t = (s.onTx fun x => retransmit x fs).complete := by
  cases hf : segmentFrames s.tx s.tx.base.toNat (inFlight s.tx) with
  | none => rw [exec_txTimeout_of_unwritten he hf] at h; cases h
  | some fs => rw [exec_txTimeout_of_frames he hf] at h; cases h; exact ⟨fs, rfl, rfl⟩

/-- The frame of every segment of a burst is in the burst. -/
theorem segmentFrame_mem_burst {x : TxEngine} {fs : List Frame}
    (h : segmentFrames x x.base.toNat (inFlight x) = some fs) {i : Nat} (hlo : x.base.toNat ≤ i)
    (hhi : i < x.next.toNat) : ∃ f ∈ fs, segmentFrame x i = some f := by
  obtain ⟨hl, hs⟩ := (segmentFrames_eq_some_iff _ _ _ _).1 h
  unfold inFlight at hl hs
  have hi := hs (i - x.base.toNat) (by omega)
  rw [Nat.add_sub_of_le hlo, List.getElem?_eq_getElem (by omega)] at hi
  exact ⟨_, List.getElem_mem _, hi⟩

/-- The TX engine's timer expires at step `n` of the run and the window is retransmitted (R190). -/
def Run.bursts (ρ : Run) (n : Nat) : Prop := ρ.takes n .txTimeout ∧ txTimeoutEnabled (ρ.state n).tx = true

/-- Twice the number of data frames on their way and once that of acks: a delivery makes it smaller, since a data frame is
answered by at most one ack. -/
def pending (s : State) : Nat := 2 * s.tx.out.length + s.rx.out.length

/-- A draw that passes is not below the threshold (R201). -/
theorem le_of_shouldDrop_eq_false {r loss : Half} (h : shouldDrop r loss = false) : loss.toNat ≤ r.toNat :=
  Nat.not_lt.1 (of_decide_eq_false h)

/-! ## One step of a run -/

section
variable {ρ : Run} (hw : ∀ n x, ρ.given n = some x → withinTransfer x = true)
include hw

/-- A step of a run that takes an operation is that operation in the state the fetch hands over. -/
theorem Run.takes_exec {n : Nat} {i : Instr} (h : ρ.takes n i) :
    ∃ u, fetch ((ρ.state n).offered (ρ.given n)) = .run i u ∧ Took (ρ.state n) i u ∧
      exec i u = .next (ρ.state (n + 1)) := by
  obtain ⟨u, hu⟩ := h
  obtain ⟨j, v, hf, ht, he⟩ | ⟨hf, -⟩ := run_step hw n
  · rw [hu] at hf
    cases hf
    exact ⟨u, hu, ht, he⟩
  · rw [hu] at hf
    cases hf

/-- An ack of the window that passes advances it (R169). -/
theorem Run.passesToTx_advances {n : Nat} {k sid : Half} (hp : ρ.passesToTx n (encodeAck k sid))
    (hs : (ρ.state n).tx.state = .active) (hk : k.toNat < (ρ.state n).tx.next.toNat)
    (hb : (ρ.state n).tx.base.toNat ≤ k.toNat + 1) :
    (ρ.state (n + 1)).tx = advanceWindow (ρ.state n).tx k := by
  obtain ⟨r, htakes, hdraw⟩ := hp
  obtain ⟨u, -, ht, he⟩ := Run.takes_exec hw htakes
  rw [exec, execTxAckIn] at he
  have hpass : (ρ.state n).tx.ctrl.getLsbD 0 = false ∨ (ρ.state n).tx.cfgLoss.toNat ≤ r.toNat :=
    (Bool.and_eq_false_iff.1 hdraw).imp_right le_of_shouldDrop_eq_false
  rw [← Host.Outcome.next.inj he, complete_tx, onTx_tx, ht.ack_tx, ackArrives_advance sid hs hpass hk hb]

/-- A step of a sending engine that neither sends nor retransmits delivers a frame, or lets the timer at most count
down. -/
theorem Run.quiet_step {n : Nat} (hs : (ρ.state n).tx.state = .active)
    (hsend : (ρ.state (n + 1)).tx.next = (ρ.state n).tx.next) (hburst : ¬ ρ.bursts n) :
    pending (ρ.state (n + 1)) < pending (ρ.state n) ∨
      (pending (ρ.state (n + 1)) ≤ pending (ρ.state n) ∧
        (ρ.state (n + 1)).tx.tmrCount.toNat ≤ (ρ.state n).tx.tmrCount.toNat) := by
  unfold pending
  obtain ⟨i, u, hf, ht, he⟩ | ⟨-, hidle⟩ := run_step hw n
  · obtain ⟨q, -, hutx⟩ := ht.handed.tx
    have hmoved := exec_moved he
    obtain ⟨hlen, hsame⟩ := hmoved.rx.out_length
    obtain ⟨g, -, -, hy⟩ | ⟨rfl, hon, -⟩ | ⟨hout, -, hcount⟩ := hmoved.tx.active_cases (by rw [hutx]; exact hs)
    · rw [hy, sendNext_next, hutx] at hsend
      simp at hsend
    · rw [hutx] at hon
      exact (hburst ⟨⟨u, hf⟩, hon⟩).elim
    · cases ht with
      | plain _ htx hrx hd ha =>
        have hcount := hcount.resolve_left fun ⟨b, hb⟩ => by rw [ha] at hb; cases hb
        rw [hout, hsame hd, htx, hrx]
        exact .inr ⟨Nat.le_refl _, htx ▸ hcount⟩
      | data _ hk htx hrx =>
        obtain ⟨hlt, -⟩ := List.getElem?_eq_some_iff.1 hk
        have hshorter := List.length_eraseIdx_of_lt hlt
        rw [hrx] at hlen
        rw [hout, htx, hshorter]
        omega
      | ack _ hk htx hrx =>
        obtain ⟨hlt, -⟩ := List.getElem?_eq_some_iff.1 hk
        have hshorter := List.length_eraseIdx_of_lt hlt
        rw [hout, hsame rfl, htx, hrx, hshorter]
        omega
  · obtain ⟨q, -, htx⟩ := hidle.handed.tx
    have hlt := hidle.tx
    have hlr := hidle.rx
    exact .inr ⟨by omega, by rw [htx]⟩

/-- A step of a transfer under way moves the window and the reassembly only forward (R43, R173). -/
theorem Run.forward_step {stream : Frame} {o : State} {n : Nat} (h : UnderWay stream o (ρ.state n)) :
    (ρ.state n).tx.base.toNat ≤ (ρ.state (n + 1)).tx.base.toNat ∧
    (ρ.state n).tx.next.toNat ≤ (ρ.state (n + 1)).tx.next.toNat ∧
    (ρ.state n).rx.expected.toNat ≤ (ρ.state (n + 1)).rx.expected.toNat := by
  obtain ⟨i, u, -, ht, he⟩ | ⟨-, hidle⟩ := run_step hw n
  · have hsending := ht.handed.keeps_sending h.sending
    have hreceiving := ht.handed.keeps_receiving h.receiving
    obtain ⟨q, -, htx⟩ := ht.handed.tx
    obtain ⟨r, -, hrx⟩ := ht.handed.rx
    have hmoved := exec_moved he
    obtain ⟨hbase, hnext, -⟩ := hmoved.tx.windowForward hsending.active
    obtain ⟨k, hk, hkrx⟩ := hmoved.rx.not_start hreceiving.await
    have hexpected := hkrx.expected_le hk
    rw [htx] at hbase hnext
    rw [hrx] at hexpected
    exact ⟨hbase, hnext, hexpected⟩
  · obtain ⟨q, -, htx⟩ := hidle.handed.tx
    obtain ⟨r, -, hrx⟩ := hidle.handed.rx
    rw [htx, hrx]
    exact ⟨Nat.le_refl _, Nat.le_refl _, Nat.le_refl _⟩

end

/-! ## A window that stands still -/

/-- A 16-bit register that never falls stands still at last. -/
theorem settles_half {f : Nat → Half} (hm : ∀ n, (f n).toNat ≤ (f (n + 1)).toNat) : ∃ k, ∀ n, k ≤ n → f n = f k := by
  obtain ⟨k, hk⟩ := settles_of_bounded hm fun n => (f n).isLt.le
  exact ⟨k, fun n hn => BitVec.eq_of_toNat_eq (hk n hn)⟩

/-- A fair run whose transfer is under way for ever, and in which from step `a` on the window and the reassembly stand
still. -/
structure Stalled (stream : Frame) (ρ : Run) (a : Nat) : Prop where
  fair : FairTransfer stream ρ
  underWay : ∀ n, UnderWay stream (ρ.state 0) (ρ.state n)
  base : ∀ n, a ≤ n → (ρ.state n).tx.base = (ρ.state a).tx.base
  next : ∀ n, a ≤ n → (ρ.state n).tx.next = (ρ.state a).tx.next
  expected : ∀ n, a ≤ n → (ρ.state n).rx.expected = (ρ.state a).rx.expected

/-- A transfer under way for ever stands still at last. -/
theorem FairTransfer.stalled {stream : Frame} {ρ : Run} (h : FairTransfer stream ρ)
    (hu : ∀ n, UnderWay stream (ρ.state 0) (ρ.state n)) : ∃ a, Stalled stream ρ a := by
  have hforward := fun n => Run.forward_step h.alone (hu n)
  obtain ⟨b, hb⟩ := settles_half fun n => (hforward n).1
  obtain ⟨c, hc⟩ := settles_half fun n => (hforward n).2.1
  obtain ⟨e, he⟩ := settles_half fun n => (hforward n).2.2
  refine ⟨b + c + e, h, hu, fun n hn => ?_, fun n hn => ?_, fun n hn => ?_⟩
  · rw [hb n (by omega), hb (b + c + e) (by omega)]
  · rw [hc n (by omega), hc (b + c + e) (by omega)]
  · rw [he n (by omega), he (b + c + e) (by omega)]

namespace Stalled

variable {stream : Frame} {ρ : Run} {a : Nat}

/-- The window is not empty: an empty one would leave `TX_SEND` enabled for ever, which would move it (R165, R270 2). -/
theorem base_lt_next (h : Stalled stream ρ a) : (ρ.state a).tx.base.toNat < (ρ.state a).tx.next.toNat := by
  by_contra hempty
  have hon : ∀ k, a ≤ k → txSendEnabled (ρ.state k).tx = true := fun k hk => by
    have hsending := (h.underWay k).sending
    obtain ⟨hle, -, -, hlt⟩ := hsending.window.window hsending.active
    obtain ⟨-, hwidth, -⟩ := hsending.same
    obtain ⟨-, -, hw, -⟩ := h.fair.configured.transfer.legal h.fair.configured.states.1
    have hbase := congrArg BitVec.toNat (h.base k hk)
    have hnext := congrArg BitVec.toNat (h.next k hk)
    rw [← hwidth] at hw
    exact (txSendEnabled_iff _).2 ⟨hsending.active, by omega, by omega⟩
  obtain ⟨k, hk, htakes⟩ := h.fair.sends a hon
  obtain ⟨u, -, ht, he⟩ := Run.takes_exec h.fair.alone htakes
  obtain ⟨hutx, -⟩ := ht.no_bytes rfl rfl
  obtain ⟨f, -, hsent⟩ := exec_txSend_next (by rw [hutx]; exact hon k hk) he
  have hmoved : (ρ.state (k + 1)).tx.next = (ρ.state k).tx.next + 1 := by
    rw [hsent, complete_tx, onTx_tx, sendNext_next, hutx]
  rw [h.next k hk, h.next (k + 1) (by omega)] at hmoved
  simp at hmoved

/-- So the timer runs (R193). -/
theorem tmrRun (h : Stalled stream ρ a) {n : Nat} (hn : a ≤ n) : (ρ.state n).tx.tmrRun = true := by
  have hsending := (h.underWay n).sending
  rw [hsending.window.timer hsending.active, h.base n hn, h.next n hn]
  exact h.base_lt_next

/-- A timer whose count stands still has expired, since ticks are presented again and again (R188, R270 3). -/
theorem tmrCount_eq_zero (h : Stalled stream ρ a) {k : Nat} (hk : a ≤ k)
    (hstill : ∀ n, k ≤ n → (ρ.state n).tx.tmrCount.toNat = (ρ.state k).tx.tmrCount.toNat) {n : Nat} (hn : k ≤ n) :
    (ρ.state n).tx.tmrCount = 0 := by
  obtain ⟨l, hl, htick⟩ := h.fair.ticks k
  obtain ⟨u, -, ht, he⟩ := Run.takes_exec h.fair.alone htick
  obtain ⟨hutx, -⟩ := ht.no_bytes rfl rfl
  have hticked : (ρ.state (l + 1)).tx = tick (ρ.state l).tx := by
    rw [exec, execTxTick] at he
    rw [← Host.Outcome.next.inj he, complete_tx, onTx_tx, hutx]
  have hzero : (ρ.state l).tx.tmrCount = 0 := by
    by_contra hne
    have hpos : (ρ.state l).tx.tmrCount.toNat ≠ 0 := fun h0 => hne (BitVec.eq_of_toNat_eq h0)
    have hdown : (ρ.state (l + 1)).tx.tmrCount.toNat = (ρ.state l).tx.tmrCount.toNat - 1 := by
      rw [hticked, tick_eq]
      dsimp only
      rw [if_pos ⟨h.tmrRun (hk.trans hl), hne⟩, toNat_pred hne]
    have hl0 := hstill l hl
    have hl1 := hstill (l + 1) (by omega)
    omega
  refine BitVec.eq_of_toNat_eq ?_
  rw [hstill n hn, ← hstill l hl, hzero]

/-- The window is retransmitted again and again: were it not, the frames on their way would run out, no ack would wind the
timer up any more, and it would expire for ever (R190, R270 2). -/
theorem bursts_infinitelyOften (h : Stalled stream ρ a) : InfinitelyOften ρ.bursts := by
  intro n
  by_contra hnever
  have hquiet := fun k (hk : max a n ≤ k) => Run.quiet_step h.fair.alone (h.underWay k).sending.active
    ((h.next (k + 1) (by omega)).trans (h.next k (by omega)).symm) fun hb => hnever ⟨k, by omega, hb⟩
  obtain ⟨j, hj, hpending⟩ := settles_of_falling (f := fun k => pending (ρ.state k)) (a := max a n) fun k hk => by
    have := hquiet k hk
    omega
  obtain ⟨k, hk, hcount⟩ := settles_of_falling (f := fun k => (ρ.state k).tx.tmrCount.toNat) (a := j) fun k hk => by
    have hstep := hquiet k (by omega)
    have h0 := hpending k hk
    have h1 := hpending (k + 1) (by omega)
    omega
  have hon : ∀ l, k ≤ l → txTimeoutEnabled (ρ.state l).tx = true := fun l hl => (txTimeoutEnabled_iff _).2
    ⟨(h.underWay l).sending.active, h.tmrRun (by omega), h.tmrCount_eq_zero (by omega) hcount hl⟩
  obtain ⟨l, hl, htakes⟩ := h.fair.expires k hon
  exact hnever ⟨l, by omega, htakes, hon l hl⟩

end Stalled

/-! ## What a retransmission brings about -/

/-- The fields of the data frame in which the TX engine `x` sends segment `i` of the stream (R63, R166). -/
def streamData (stream : Frame) (x : TxEngine) (i : Nat) : DataFrame where
  seq := BitVec.ofNat 16 i
  sid := x.cfgSid
  last := decide (i + 1 = streamSegments stream x.cfgM.toNat)
  payload := streamSegment stream x.cfgM.toNat i

/-- The bytes of a data frame (R86). -/
def dataFrameBytes (d : DataFrame) : Frame := le16 d.seq ++ le16 d.sid ++ d.payload ++ trailer d.last

/-- The frame built for a segment in the course of a transfer is the same at every step (R166, R267). -/
theorem UnderWay.segmentFrame {stream : Frame} {o s : State} (h : UnderWay stream o s) {i : Nat}
    (hi : i < s.tx.nseg.toNat) {f : Frame} (hf : segmentFrame s.tx i = some f) :
    f = dataFrameBytes (streamData stream o.tx i) := by
  obtain ⟨hlegal, hsends, -⟩ := loopInv_iff.1 h.receiving.loop
  obtain ⟨hm, hl, hb⟩ := hsends.source h.sending.active
  obtain ⟨-, -, -, hsid, -⟩ := h.sending.same
  rw [segmentFrame_stream ⟨hlegal.1, hlegal.2.1⟩ hm hl hb (hsends.total (by rw [h.sending.active]; nofun)) hi hf, hsid]
  rfl

namespace Stalled

variable {stream : Frame} {ρ : Run} {a : Nat}

/-- A retransmission emits every segment of the window (R190). -/
theorem burst_emits (h : Stalled stream ρ a) {i n : Nat} (hlo : (ρ.state a).tx.base.toNat ≤ i)
    (hhi : i < (ρ.state a).tx.next.toNat) (hn : a ≤ n) (hb : ρ.bursts n) :
    ρ.emitsData n (dataFrameBytes (streamData stream (ρ.state 0).tx i)) := by
  obtain ⟨htakes, hon⟩ := hb
  obtain ⟨u, hf, ht, he⟩ := Run.takes_exec h.fair.alone htakes
  obtain ⟨hutx, -⟩ := ht.no_bytes rfl rfl
  obtain ⟨fs, hfs, hsent⟩ := exec_txTimeout_next (by rw [hutx]; exact hon) he
  rw [hutx] at hfs
  have hsending := (h.underWay n).sending
  obtain ⟨-, -, hnseg, -⟩ := hsending.window.window hsending.active
  rw [← h.base n hn] at hlo
  rw [← h.next n hn] at hhi
  obtain ⟨f, hmem, hi⟩ := segmentFrame_mem_burst hfs hlo hhi
  refine ⟨_, u, fs, hf, by rw [hsent]; rfl, ?_⟩
  rwa [← (h.underWay n).segmentFrame (hhi.trans_le hnseg) hi]

/-- Every segment of the window reaches the RX engine again and again with a draw that passes (R270 4, 5). -/
theorem passesToRx_infinitelyOften (h : Stalled stream ρ a) {i : Nat} (hlo : (ρ.state a).tx.base.toNat ≤ i)
    (hhi : i < (ρ.state a).tx.next.toNat) :
    InfinitelyOften fun n => ρ.passesToRx n (dataFrameBytes (streamData stream (ρ.state 0).tx i)) :=
  h.fair.rxDraws _ (h.fair.forward _ (h.bursts_infinitelyOften.of_from fun _ hn hb => h.burst_emits hlo hhi hn hb))

end Stalled

/-- No segment is longer than the segment size the RX engine was configured with (R266). -/
theorem UnderWay.payload_le {stream : Frame} {o s : State} (h : UnderWay stream o s) (i : Nat) :
    (streamData stream o.tx i).payload.length ≤ s.rx.cfgM.toNat := by
  rw [h.receiving.size, streamData, streamSegment_length]
  exact Nat.min_le_left _ _

/-- There is room for the segment the RX engine expects where there is room for the stream (R266). -/
theorem UnderWay.room {stream : Frame} {o s : State} (h : UnderWay stream o s)
    (hfits : stream.length ≤ o.params.rxCap) :
    s.rx.len.toNat + (streamData stream o.tx s.rx.expected.toNat).payload.length ≤ s.params.rxCap := by
  rw [h.receiving.loop.length (by rw [h.receiving.await]; nofun), streamData, streamSegment_length, h.receiving.params]
  omega

/-- The RX engine expects a segment of the stream, which is no sentinel (R53). -/
theorem UnderWay.expected_ne {stream : Frame} {o s : State} (h : UnderWay stream o s) : s.rx.expected ≠ 0xFFFF := by
  intro he
  have hlt := h.receiving.loop.progress h.receiving.await
  obtain ⟨-, -, hn⟩ := h.receiving.loop.legal
  rw [he] at hlt
  simp only [BitVec.reduceToNat] at hlt
  omega

namespace Stalled

variable {stream : Frame} {ρ : Run} {a : Nat}

/-- The segment the RX engine expects never passes: it would be accepted (R140). -/
theorem not_passesToRx_expected (h : Stalled stream ρ a) {n : Nat} (hn : a ≤ n) : ¬ ρ.passesToRx n
    (dataFrameBytes (streamData stream (ρ.state 0).tx (ρ.state a).rx.expected.toNat)) := by
  rintro ⟨r, htakes, hdraw⟩
  obtain ⟨u, -, ht, he⟩ := Run.takes_exec h.fair.alone htakes
  obtain ⟨hurx, huparams⟩ := ht.data_rx
  have hup := h.underWay n
  rw [← h.expected n hn] at he
  have haccept := exec_rxFrameIn_accept (s := u) (r := r)
    (streamData stream (ρ.state 0).tx (ρ.state n).rx.expected.toNat)
    (by rw [hurx]; exact hup.receiving.await) (by rw [hurx]; exact le_of_shouldDrop_eq_false hdraw)
    (by rw [hurx]; exact hup.payload_le _)
    (by rw [hurx, streamData, BitVec.ofNat_toNat, BitVec.setWidth_eq]) (by rw [hurx]; exact hup.expected_ne)
    (by rw [hurx, huparams]; exact hup.room h.fair.configured.fits)
  have hmoved : (ρ.state (n + 1)).rx.expected = (ρ.state n).rx.expected + 1 := by
    rw [← Host.Outcome.next.inj (haccept.symm.trans he), complete_rx, onRx_rx, acceptFrame_expected, hurx]
  rw [h.expected n hn, h.expected (n + 1) (by omega)] at hmoved
  simp at hmoved

/-- So the RX engine expects no segment of the window: it has accepted all that was sent. -/
theorem expected_eq_next (h : Stalled stream ρ a) : (ρ.state a).rx.expected.toNat = (ρ.state a).tx.next.toNat := by
  have hup := h.underWay a
  have hbehind := hup.receiving.acks.behind (by rw [hup.sending.active]; nofun)
  have hwithin := hup.sending.sent.expected
  by_contra hne
  obtain ⟨n, hn, hpass⟩ := h.passesToRx_infinitelyOften hbehind (by omega) a
  exact h.not_passesToRx_expected hn hpass

/-- A frame of the window that passes is answered by the ack of the last segment sent (R141). -/
theorem passesToRx_emitsAck (h : Stalled stream ρ a) {n : Nat} (hn : a ≤ n) (hp : ρ.passesToRx n
    (dataFrameBytes (streamData stream (ρ.state 0).tx (ρ.state a).tx.base.toNat))) :
    ρ.emitsAck n (encodeAck ((ρ.state a).tx.next - 1) (ρ.state 0).tx.cfgSid) := by
  obtain ⟨r, htakes, hdraw⟩ := hp
  obtain ⟨u, hf, ht, he⟩ := Run.takes_exec h.fair.alone htakes
  obtain ⟨hurx, -⟩ := ht.data_rx
  have hup := h.underWay n
  have hexpected : (ρ.state n).rx.expected = (ρ.state a).tx.next := by
    rw [h.expected n hn]
    exact BitVec.eq_of_toNat_eq h.expected_eq_next
  have hbelow := exec_rxFrameIn_below (s := u) (r := r) (streamData stream (ρ.state 0).tx (ρ.state a).tx.base.toNat)
    (by rw [hurx]; exact hup.receiving.await) (by rw [hurx]; exact le_of_shouldDrop_eq_false hdraw)
    (by rw [hurx]; exact hup.payload_le _)
    (by rw [hurx, hexpected, streamData, BitVec.ofNat_toNat, BitVec.setWidth_eq]; exact h.base_lt_next)
  refine ⟨_, u, _, hf, ?_, List.mem_singleton_self _⟩
  rw [← Host.Outcome.next.inj (hbelow.symm.trans he), hurx, hexpected]
  rfl

/-- That ack never passes: it would move the window (R169). -/
theorem not_passesToTx_last (h : Stalled stream ρ a) {n : Nat} (hn : a ≤ n) :
    ¬ ρ.passesToTx n (encodeAck ((ρ.state a).tx.next - 1) (ρ.state 0).tx.cfgSid) := by
  intro hp
  have hopen := h.base_lt_next
  have hlast : ((ρ.state a).tx.next - 1).toNat = (ρ.state a).tx.next.toNat - 1 :=
    toNat_pred fun h0 => by simp [h0] at hopen
  have hmoved := Run.passesToTx_advances h.fair.alone hp (h.underWay n).sending.active
    (by rw [hlast, h.next n hn]; omega) (by rw [hlast, h.base n hn]; omega)
  have hbase : (ρ.state (n + 1)).tx.base = (ρ.state a).tx.next := by
    rw [hmoved, advanceWindow_base, sub_add_cancel]
  rw [← hbase, h.base (n + 1) (by omega)] at hopen
  exact hopen.false

end Stalled

/-- No fair transfer stands still: the whole window has been accepted, so each retransmission has it acknowledged anew, and
one of these acks passes. -/
theorem not_stalled (stream : Frame) (ρ : Run) (a : Nat) : ¬ Stalled stream ρ a := by
  intro h
  have hacks : InfinitelyOften fun n => ρ.emitsAck n (encodeAck ((ρ.state a).tx.next - 1) (ρ.state 0).tx.cfgSid) :=
    (h.passesToRx_infinitelyOften (Nat.le_refl _) h.base_lt_next).of_from fun _ hn hp => h.passesToRx_emitsAck hn hp
  obtain ⟨n, hn, hpass⟩ := h.fair.txDraws _ (h.fair.reverse _ hacks) a
  exact h.not_passesToTx_last hn hpass

/-! ## Completion -/

/-- The receiver completes: otherwise the transfer would be under way for ever, and stand still (R270). -/
theorem FairTransfer.delivers {stream : Frame} {ρ : Run} (h : FairTransfer stream ρ) :
    ∃ n, Delivered stream (ρ.state n) := by
  by_contra hnever
  obtain ⟨a, hstalled⟩ := h.stalled (h.underWay (not_exists.1 hnever))
  exact not_stalled stream ρ a hstalled

/-- The sender completes where an ack of the final segment passes, whatever the receiver does by then (R170, R270). -/
theorem FairTransfer.completes {stream : Frame} {ρ : Run} (h : FairTransfer stream ρ) {n : Nat} {sid : Half}
    (hp : ρ.passesToTx n
      (encodeAck (BitVec.ofNat 16 (streamSegments stream (ρ.state 0).tx.cfgM.toNat - 1)) sid)) :
    ∃ n, (ρ.state n).tx.state = .done := by
  by_contra hnever
  have hsending := h.sending (not_exists.1 hnever) n
  have htotal : (ρ.state n).tx.nseg.toNat = streamSegments stream (ρ.state 0).tx.cfgM.toNat := by
    obtain ⟨-, -, -, -, -, -, -, hnseg, -⟩ := hsending.same
    rw [hnseg, h.configured.total]
  rw [← htotal] at hp
  obtain ⟨-, -, -, hlt⟩ := hsending.window.window hsending.active
  have hk : (BitVec.ofNat 16 ((ρ.state n).tx.nseg.toNat - 1)).toNat = (ρ.state n).tx.nseg.toNat - 1 :=
    (BitVec.toNat_ofNat _ _).trans (Nat.mod_eq_of_lt (by have := (ρ.state n).tx.nseg.isLt; omega))
  have hsent : (ρ.state n).tx.nseg.toNat - 1 < (ρ.state n).tx.next.toNat := by
    obtain ⟨r, htakes, -⟩ := hp
    obtain ⟨u, -, ht, -⟩ := Run.takes_exec h.alone htakes
    have := (hsending.sent.acks _ (ht.ack_mem rfl)).decoded (decodeAck_frame _ sid)
    rwa [hk] at this
  have hmoved := Run.passesToTx_advances h.alone hp hsending.active (by rwa [hk]) (by rw [hk]; omega)
  refine hnever ⟨n + 1, ?_⟩
  rw [hmoved, advanceWindow_state, if_pos]
  refine BitVec.eq_of_toNat_eq ?_
  rw [half_succ (by rw [hk]; have := (ρ.state n).tx.nseg.isLt; omega), hk]
  omega

/-- Settles O60: a transfer under way for ever would stand still, which fairness excludes (`not_stalled`); and an ack of
the final segment on its way names a segment that has been sent, so it completes a sender that is not done. -/
theorem fairTransferCompletes : Obligations.FairTransferCompletes :=
  fun _ _ h => ⟨h.delivers, fun ⟨_, _, hp⟩ => h.completes hp⟩

end Sys2Proof.Machine
end
